-- ==== Sys2Proof/Word.lean ====
section
/-! DEFINITION. The word types of the block: bytes, half words (i16 and u16 fields, samples) and the 32-bit
words that every port, every status register and the public slot are made of (R80, R85, R110). -/

namespace Sys2Proof

/-- Eight bits: a byte of the frame, an operation code, a selector (R81, R111). -/
abbrev Byte := BitVec 8

/-- Sixteen bits: an i16 sample or window entry, a u16 field, the `IMM` field (R11, R49, R111). -/
abbrev Half := BitVec 16

/-- Thirty-two bits: a port word, a register, a word of the public slot (R42, R82, R110). -/
abbrev Word := BitVec 32

end Sys2Proof
end

