-- ==== Sys2Proof/Syntax.lean ====
section
/-! DEFINITION. The syntax of the block: its ports (R365, R370) and its eight commands (R112), one constructor
for each row of spec/opcode_table.json. -/

namespace Sys2Proof

/-- A port of the block: the control (producer) port P, or reader port `r`, numbered from 1 to `K_READERS`
(R365, R370). `reader 0` and a number above `K_READERS` name no port. -/
inductive Port where
  | control
  | reader (r : Nat)
  deriving DecidableEq, Repr

/-- Whether the port is P, the one port that runs all eight commands (R365). -/
def Port.isControl : Port → Bool
  | .control => true
  | .reader _ => false

/-- A command of the block with its operands (R112). No constructor holds a register operand or an address:
there are none (R119). -/
inductive Instr where
  /-- `NOP` (R343). -/
  | nop
  /-- `SOFT_RESET` (R344). -/
  | softReset
  /-- `PROCESS_CHUNK` with the timestamp and the `n = IMM` samples of its payload (R115, R330). The half word
  that an odd `n` leaves ignored is no operand (I-7). -/
  | processChunk (ts : Word) (samples : List Half)
  /-- `SET_TUNABLE`: register id and the u32 value of the payload (R116, R340). -/
  | setTunable (id : Byte) (v : Word)
  /-- `GET_TUNABLE`: register id (R341). -/
  | getTunable (id : Byte)
  /-- `GET_STATUS`: status register index (R342). -/
  | getStatus (idx : Byte)
  /-- `SNAPSHOT`: the number of attempts (R152). -/
  | snapshot (k : Half)
  /-- `GET_EPOCH` (R153). -/
  | getEpoch
  deriving DecidableEq, Repr

end Sys2Proof
end

