-- ==== Sys2Proof/WellFormed.lean ====
section
/-! DEFINITION. Well-formed commands: those some sequence of port words encodes. -/

namespace Sys2Proof

/-- How many tunable registers are implemented: ids 0 to 4 (R42, R123). -/
def tunableCount : Nat := 5

/-- How many status registers are implemented: indices 0 to 9 (R43, R123). -/
def statusCount : Nat := 10

/-- A command is well formed when its sample count fits the 16-bit `IMM` (R111, R119) and its selector names
an implemented register (R123). Every other operand fills its field. -/
def Instr.wellFormed : Instr → Bool
  | .nop => true
  | .softReset => true
  | .processChunk _ samples => decide (samples.length < 65536)
  | .setTunable id _ => decide (id.toNat < tunableCount)
  | .getTunable id => decide (id.toNat < tunableCount)
  | .getStatus idx => decide (idx.toNat < statusCount)
  | .snapshot _ => true
  | .getEpoch => true

end Sys2Proof
end

