-- ==== Sys2Proof/Decode.lean ====
section
/-! DEFINITION. Command words: fields, lengths, admission and illegal words (R110 to R123), payloads (R115,
R116), the encoder, and the byte order of a transport that serialises words (R83, R84). -/

namespace Sys2Proof

/-! ### Fields and formats -/

/-- `OPC = w[31:24]` (R111). -/
def opcField (w : Word) : Byte := w.extractLsb' 24 8

/-- `SEL = w[23:16]` (R111). -/
def selField (w : Word) : Byte := w.extractLsb' 16 8

/-- `IMM = w[15:0]` (R111). -/
def immField (w : Word) : Half := w.extractLsb' 0 16

/-- The command word `{OPC, SEL, IMM}` (R111). -/
def commandWord (opc sel : Byte) (imm : Half) : Word := opc ++ sel ++ imm

/-- The eight assigned operation codes (R112). -/
inductive Op where
  | nop | softReset | processChunk | setTunable | getTunable | getStatus | snapshot | getEpoch
  deriving DecidableEq, Repr

/-- The code of each operation (R112). -/
def Op.code : Op → Byte
  | .nop => 0x00
  | .softReset => 0x01
  | .processChunk => 0x10
  | .setTunable => 0x20
  | .getTunable => 0x21
  | .getStatus => 0x30
  | .snapshot => 0x40
  | .getEpoch => 0x41

/-- Every operation, in the order of the table (R112). -/
def Op.all : List Op :=
  [.nop, .softReset, .processChunk, .setTunable, .getTunable, .getStatus, .snapshot, .getEpoch]

/-- The operation a code is assigned to, if any (R112). -/
def Op.ofCode (b : Byte) : Option Op := Op.all.find? fun op => op.code == b

/-- Whether the operation has a selector; where it has none, `SEL` must be 0 (R112, R120 b). -/
def Op.hasSel : Op → Bool
  | .setTunable | .getTunable | .getStatus => true
  | .nop | .softReset | .processChunk | .snapshot | .getEpoch => false

/-- Whether the operation has an immediate; where it has none, `IMM` must be 0 (R112, R120 c). -/
def Op.hasImm : Op → Bool
  | .processChunk | .snapshot => true
  | .nop | .softReset | .setTunable | .getTunable | .getStatus | .getEpoch => false

/-- Whether a reader port may run the operation (R112, R365). -/
def Op.onReader : Op → Bool
  | .nop | .snapshot | .getEpoch => true
  | .softReset | .processChunk | .setTunable | .getTunable | .getStatus => false

/-- How many registers the selector of the operation names (R123); 256 where it has none, its `SEL` being 0. -/
def Op.selCount : Op → Nat
  | .setTunable | .getTunable => tunableCount
  | .getStatus => statusCount
  | .nop | .softReset | .processChunk | .snapshot | .getEpoch => 256

/-- Samples packed two to a word need `cdiv(n, 2)` words (R112, R115). -/
def sampleWords (n : Nat) : Nat := (n + 1) / 2

/-- The length of a command in words, from its command word alone, whatever its selector, its port or its
legality (R113). -/
def commandLength (w : Word) : Nat :=
  if opcField w = Op.processChunk.code then 2 + sampleWords (immField w).toNat
  else if opcField w = Op.setTunable.code then 2
  else 1

/-! ### Payloads -/

/-- Bits [15:0] of a payload word: the even sample (R115). -/
def lowHalf (w : Word) : Half := w.extractLsb' 0 16

/-- Bits [31:16] of a payload word: the odd sample (R115). -/
def highHalf (w : Word) : Half := w.extractLsb' 16 16

/-- The first `n` samples of the payload words, sample `2i` low and sample `2i+1` high (R115); with `n` odd the
high half of the last word is ignored (I-7). Words that are missing give no samples. -/
def unpackSamples : Nat → List Word → List Half
  | 0, _ => []
  | _ + 1, [] => []
  | 1, w :: _ => [lowHalf w]
  | n + 2, w :: ws => lowHalf w :: highHalf w :: unpackSamples n ws

/-- Half words packed two to a word, the first low, an odd last one alone with a zero above it (R83, R115). -/
def packHalves : List Half → List Word
  | [] => []
  | [a] => [(0 : Half) ++ a]
  | a :: b :: rest => (b ++ a) :: packHalves rest

/-! ### Illegal commands and admission -/

/-- Why a command word is `ILLEGAL` (R120), in the order R121 checks; the block answers all of them alike. -/
inductive Illegal where
  /-- The port may not run it (R120 d). -/
  | port
  /-- `OPC` is unassigned (R120 a). -/
  | opcode
  /-- `SEL` or `IMM` is not 0 where the operation has none (R120 b, c). -/
  | fields
  /-- The selector names a register that is not implemented (R120 e, R123). -/
  | selector
  deriving DecidableEq, Repr

/-- The port check: a reader port admits only NOP, SNAPSHOT and GET_EPOCH (R120 d). -/
def portAdmits (control : Bool) (w : Word) : Bool :=
  control || (match Op.ofCode (opcField w) with | some op => op.onReader | none => false)

/-- The command an admitted operation word and its payload stand for (R115, R116, R119). -/
def buildInstr (op : Op) (w : Word) (payload : List Word) : Instr :=
  match op with
  | .nop => .nop
  | .softReset => .softReset
  | .processChunk => .processChunk (payload.getD 0 0) (unpackSamples (immField w).toNat (payload.drop 1))
  | .setTunable => .setTunable (selField w) (payload.getD 0 0)
  | .getTunable => .getTunable (selField w)
  | .getStatus => .getStatus (selField w)
  | .snapshot => .snapshot (immField w)
  | .getEpoch => .getEpoch

/-- Whether the fields an operation lacks are 0 (R120 b, c). -/
def fieldsOk (op : Op) (w : Word) : Bool :=
  (op.hasSel || selField w == 0) && (op.hasImm || immField w == 0)

/-- Admission of a command word with its payload on the control port (`control`) or on a reader port: port,
then operation code, then fields, then selector (R120, R121). Total on all words. -/
def accept (control : Bool) (w : Word) (payload : List Word) : Except Illegal Instr :=
  if portAdmits control w then
    match Op.ofCode (opcField w) with
    | none => .error .opcode
    | some op =>
      if fieldsOk op w then
        if (selField w).toNat < op.selCount then .ok (buildInstr op w payload)
        else .error .selector
      else .error .fields
  else .error .port

/-! ### Taking a command off a stream -/

/-- Whether a list holds at least `n` words. -/
def hasWords : Nat → List Word → Bool
  | 0, _ => true
  | _ + 1, [] => false
  | n + 1, _ :: ws => hasWords n ws

/-- The next command on a stream: its command word, its payload and the words after it, or nothing while the
stream does not hold the whole command yet (R113; log 9). -/
def takeCommand : List Word → Option (Word × List Word × List Word)
  | [] => none
  | w :: ws =>
    if hasWords (commandLength w - 1) ws then
      some (w, ws.take (commandLength w - 1), ws.drop (commandLength w - 1))
    else none

/-- Why a word or byte sequence gives no command. -/
inductive DecodeError where
  /-- The command is `ILLEGAL`, for this reason (R120). -/
  | illegal (why : Illegal)
  /-- The sequence ends before the command does (R113). -/
  | incomplete
  /-- The transport delivers a partial word, which is outside the spec (R84, I-10). -/
  | partialWord
  deriving DecidableEq, Repr

/-- The first command of a word sequence and the words after it. -/
def decode (control : Bool) (ws : List Word) : Except DecodeError (Instr × List Word) :=
  match takeCommand ws with
  | none => .error .incomplete
  | some (w, payload, rest) =>
    match accept control w payload with
    | .ok i => .ok (i, rest)
    | .error why => .error (.illegal why)

/-! ### Byte transports -/

/-- The bytes of a word, the lowest address first: bits [7:0] come first (R83). -/
def bytesOfWord (w : Word) : List Byte :=
  [w.extractLsb' 0 8, w.extractLsb' 8 8, w.extractLsb' 16 8, w.extractLsb' 24 8]

/-- The word of four bytes, the first in bits [7:0] (R83). -/
def wordOfBytes (b0 b1 b2 b3 : Byte) : Word := b3 ++ b2 ++ b1 ++ b0

/-- The words a byte transport delivers; nothing where it ends within a word (R83, R84). -/
def wordsOfBytes : List Byte → Option (List Word)
  | [] => some []
  | b0 :: b1 :: b2 :: b3 :: rest =>
    match wordsOfBytes rest with
    | some ws => some (wordOfBytes b0 b1 b2 b3 :: ws)
    | none => none
  | _ => none

/-- The first command of a byte sequence and the words after it, total on any bytes. -/
def decodeBytes (control : Bool) (bs : List Byte) : Except DecodeError (Instr × List Word) :=
  match wordsOfBytes bs with
  | none => .error .partialWord
  | some ws => decode control ws

/-! ### The encoder -/

/-- The words of a command: its command word and its payload (R112, R115, R116). -/
def encode : Instr → List Word
  | .nop => [commandWord Op.nop.code 0 0]
  | .softReset => [commandWord Op.softReset.code 0 0]
  | .processChunk ts samples =>
    commandWord Op.processChunk.code 0 (BitVec.ofNat 16 samples.length) :: ts :: packHalves samples
  | .setTunable id v => [commandWord Op.setTunable.code id 0, v]
  | .getTunable id => [commandWord Op.getTunable.code id 0]
  | .getStatus idx => [commandWord Op.getStatus.code idx 0]
  | .snapshot k => [commandWord Op.snapshot.code 0 k]
  | .getEpoch => [commandWord Op.getEpoch.code 0 0]

/-! ### Words numbered as the opcode table numbers them -/

/-- The words of the command whose bits are `w`, bit 0 the least significant of the first word; the bits from
`nbits` up to the command's length are 0. -/
def tableWords (nbits w : Nat) : List Word :=
  let bits := w % 2 ^ nbits
  let head := BitVec.ofNat 32 bits
  head :: (List.range (commandLength head - 1)).map fun i => BitVec.ofNat 32 (bits >>> (32 * (i + 1)))

/-- The command the decoder reads on port P from the table's bits; nothing where it refuses. -/
def decodeTableWord (nbits w : Nat) : Option Instr :=
  match decode true (tableWords nbits w) with
  | .ok (i, _) => some i
  | .error _ => none

/-- A row of the opcode table as match and mask (spec/opcode_table.json). -/
structure TableRow where
  op : Op
  matchBits : Word
  mask : Word
  deriving DecidableEq, Repr

/-- The eight rows of spec/opcode_table.json. -/
def opcodeTable : List TableRow :=
  [⟨.nop, 0x00000000, 0xFFFFFFFF⟩, ⟨.softReset, 0x01000000, 0xFFFFFFFF⟩,
   ⟨.processChunk, 0x10000000, 0xFFFF0000⟩, ⟨.setTunable, 0x20000000, 0xFF00FFFF⟩,
   ⟨.getTunable, 0x21000000, 0xFF00FFFF⟩, ⟨.getStatus, 0x30000000, 0xFF00FFFF⟩,
   ⟨.snapshot, 0x40000000, 0xFFFF0000⟩, ⟨.getEpoch, 0x41000000, 0xFFFFFFFF⟩]

end Sys2Proof
end

