-- ==== Sys2Proof/Config.lean ====
section
/-! DEFINITION. The configuration record `Cfg` (R7), whose fields are parameters of the block and no state, and
the parameter `K_READERS` (D63). The reference values `ref1` stand in Machine/Rom.lean. -/

namespace Sys2Proof

/-- The configuration record of R7: one field for each row of its table, but `FR`, `L_MIN`, `L_MAX` and
`FRAME_BYTES`, which are computed from the others, and `K_READERS`, which is `Config.readers`.
Sizes and counts are `Nat`; Q1.15, Q16.16 and Q0.16 constants are the integers R9 computes with. -/
structure Cfg where
  /-- `FS`, the sample rate in Hz. -/
  fs : Nat
  /-- `N`, samples in a chunk. -/
  n : Nat
  /-- `NB`, resonator bins. -/
  nb : Nat
  /-- `FREQ[k]` in units of 0.0001 Hz; informative. -/
  freq : List Nat
  /-- `COS[m]`, the cosine ROM. -/
  cos : List Int
  /-- `W128[n]`, the analysis window over one chunk. -/
  w128 : List Int
  /-- `WT[n]`, the tempo window. -/
  wt : List Int
  /-- `COEF[k]`. -/
  coef : List Int
  /-- `SINK[k]`. -/
  sink : List Int
  /-- `LOUD[k]`. -/
  loud : List Int
  /-- `PCMAP[k]`, the pitch class of each bin. -/
  pcmap : List Nat
  /-- `BANDS`, the half-open bin ranges of the band summary. -/
  bands : List (Nat × Nat)
  /-- `PC_CEIL`. -/
  pcCeil : Int
  /-- `BAND_CEIL`. -/
  bandCeil : Int
  /-- `FLUX_CEIL`. -/
  fluxCeil : Int
  /-- `NT`, the tempo window length in samples. -/
  nt : Nat
  /-- `TBANDS`, the half-open DFT bin ranges of the onset bands. -/
  tbands : List (Nat × Nat)
  /-- `MED_DEPTH`. -/
  medDepth : Nat
  /-- `MIXW[b]`. -/
  mixw : List Int
  /-- `H`, the novelty history depth in ticks. -/
  h : Nat
  /-- `BPM_MIN`. -/
  bpmMin : Nat
  /-- `BPM_MAX`. -/
  bpmMax : Nat
  /-- `ALPHA_TG`. -/
  alphaTg : Int
  /-- `NEAR`. -/
  near : Int
  /-- `BLEND`. -/
  blend : Int
  /-- `HOLD_TICKS`. -/
  holdTicks : Int
  /-- `HOLD_BONUS`. -/
  holdBonus : Int
  /-- `M_SLOW`. -/
  mSlow : Int
  /-- `M_FAST`. -/
  mFast : Int
  /-- `HEAVY_N`, ticks between heavy updates. -/
  heavyN : Nat
  /-- `SLEW`. -/
  slew : Int
  /-- `PLL_GAIN`. -/
  pllGain : Int
  /-- `PLL_MAXC`. -/
  pllMaxc : Int
  /-- `BEAT_WIN`. -/
  beatWin : Int
  /-- `ALPHA_CONF`. -/
  alphaConf : Int
  /-- `CONF_ON`. -/
  confOn : Int
  /-- `CONF_OFF`. -/
  confOff : Int
  /-- `ALPHA_SIL`. -/
  alphaSil : Int
  /-- `SIL_FLOOR`. -/
  silFloor : Int
  /-- `ALPHA_SL`. -/
  alphaSl : Int
  deriving DecidableEq, Repr

/-- How many reader ports the block has beyond the first: an open parameter, no value of it can be proved
(D63, I-4; log 4). -/
opaque Config.moreReaders : Nat

/-- `K_READERS`, the number of reader ports, at least 1 (R7, R365, D63; log 4). -/
def Config.readers : Nat := Config.moreReaders + 1

end Sys2Proof
end

