-- ==== Sys2Proof/Machine/Rom.lean ====
section
/-! DEFINITION. The ROM tables as the spec prints them (the printed tables are normative: 93, Part 2), the
reference configuration `ref1` (R7), the values derived from a configuration, and the check of R8. -/

namespace Sys2Proof.Machine

/-- `COS[m]`, 256 entries, Q1.15 (R174). -/
def romCos : List Int :=
  [32767, 32758, 32729, 32679, 32610, 32522, 32413, 32286, 32138, 31972, 31786, 31581, 31357, 31114, 30853, 30572] ++
  [30274, 29957, 29622, 29269, 28899, 28511, 28106, 27684, 27246, 26791, 26320, 25833, 25330, 24812, 24279, 23732] ++
  [23170, 22595, 22006, 21403, 20788, 20160, 19520, 18868, 18205, 17531, 16846, 16151, 15447, 14733, 14010, 13279] ++
  [12540, 11793, 11039, 10279, 9512, 8740, 7962, 7180, 6393, 5602, 4808, 4011, 3212, 2411, 1608, 804] ++
  [0, -804, -1608, -2411, -3212, -4011, -4808, -5602, -6393, -7180, -7962, -8740, -9512, -10279, -11039, -11793] ++
  [-12540, -13279, -14010, -14733, -15447, -16151, -16846, -17531, -18205, -18868, -19520, -20160, -20788, -21403, -22006, -22595] ++
  [-23170, -23732, -24279, -24812, -25330, -25833, -26320, -26791, -27246, -27684, -28106, -28511, -28899, -29269, -29622, -29957] ++
  [-30274, -30572, -30853, -31114, -31357, -31581, -31786, -31972, -32138, -32286, -32413, -32522, -32610, -32679, -32729, -32758] ++
  [-32768, -32758, -32729, -32679, -32610, -32522, -32413, -32286, -32138, -31972, -31786, -31581, -31357, -31114, -30853, -30572] ++
  [-30274, -29957, -29622, -29269, -28899, -28511, -28106, -27684, -27246, -26791, -26320, -25833, -25330, -24812, -24279, -23732] ++
  [-23170, -22595, -22006, -21403, -20788, -20160, -19520, -18868, -18205, -17531, -16846, -16151, -15447, -14733, -14010, -13279] ++
  [-12540, -11793, -11039, -10279, -9512, -8740, -7962, -7180, -6393, -5602, -4808, -4011, -3212, -2411, -1608, -804] ++
  [0, 804, 1608, 2411, 3212, 4011, 4808, 5602, 6393, 7180, 7962, 8740, 9512, 10279, 11039, 11793] ++
  [12540, 13279, 14010, 14733, 15447, 16151, 16846, 17531, 18205, 18868, 19520, 20160, 20788, 21403, 22006, 22595] ++
  [23170, 23732, 24279, 24812, 25330, 25833, 26320, 26791, 27246, 27684, 28106, 28511, 28899, 29269, 29622, 29957] ++
  [30274, 30572, 30853, 31114, 31357, 31581, 31786, 31972, 32138, 32286, 32413, 32522, 32610, 32679, 32729, 32758]

/-- `W128[n]`, the analysis window, 128 entries, Q1.15 (R175). -/
def romW128 : List Int :=
  [0, 19, 78, 177, 314, 490, 705, 957, 1246, 1572, 1934, 2330, 2760, 3223, 3718, 4244] ++
  [4798, 5380, 5989, 6623, 7281, 7960, 8660, 9378, 10113, 10864, 11627, 12402, 13187, 13979, 14777, 15579] ++
  [16383, 17187, 17989, 18787, 19580, 20364, 21139, 21903, 22653, 23388, 24107, 24806, 25486, 26143, 26777, 27386] ++
  [27968, 28523, 29048, 29543, 30006, 30436, 30833, 31194, 31520, 31810, 32062, 32276, 32452, 32590, 32688, 32748] ++
  [32767, 32748, 32688, 32590, 32452, 32276, 32062, 31810, 31520, 31194, 30833, 30436, 30006, 29543, 29048, 28523] ++
  [27968, 27386, 26777, 26143, 25486, 24806, 24107, 23388, 22653, 21903, 21139, 20364, 19580, 18787, 17989, 17187] ++
  [16383, 15579, 14777, 13979, 13187, 12402, 11627, 10864, 10113, 9378, 8660, 7960, 7281, 6623, 5989, 5380] ++
  [4798, 4244, 3718, 3223, 2760, 2330, 1934, 1572, 1246, 957, 705, 490, 314, 177, 78, 19]

/-- `WT[n]`, the tempo window, 256 entries, Q1.15 (R244). -/
def romWT : List Int :=
  [0, 4, 19, 44, 78, 122, 177, 240, 314, 397, 490, 593, 705, 826, 957, 1097] ++
  [1246, 1405, 1572, 1749, 1934, 2128, 2330, 2541, 2760, 2988, 3223, 3467, 3718, 3977, 4244, 4517] ++
  [4798, 5086, 5380, 5682, 5989, 6303, 6623, 6949, 7281, 7618, 7960, 8308, 8660, 9017, 9378, 9744] ++
  [10113, 10487, 10864, 11244, 11627, 12013, 12402, 12793, 13187, 13582, 13979, 14378, 14777, 15178, 15579, 15981] ++
  [16383, 16785, 17187, 17589, 17989, 18389, 18787, 19184, 19580, 19973, 20364, 20753, 21139, 21523, 21903, 22280] ++
  [22653, 23023, 23388, 23750, 24107, 24459, 24806, 25149, 25486, 25817, 26143, 26463, 26777, 27085, 27386, 27681] ++
  [27968, 28249, 28523, 28789, 29048, 29300, 29543, 29779, 30006, 30225, 30436, 30639, 30833, 31018, 31194, 31362] ++
  [31520, 31669, 31810, 31940, 32062, 32174, 32276, 32369, 32452, 32526, 32590, 32644, 32688, 32723, 32748, 32762] ++
  [32767, 32762, 32748, 32723, 32688, 32644, 32590, 32526, 32452, 32369, 32276, 32174, 32062, 31940, 31810, 31669] ++
  [31520, 31362, 31194, 31018, 30833, 30639, 30436, 30225, 30006, 29779, 29543, 29300, 29048, 28789, 28523, 28249] ++
  [27968, 27681, 27386, 27085, 26777, 26463, 26143, 25817, 25486, 25149, 24806, 24459, 24107, 23750, 23388, 23023] ++
  [22653, 22280, 21903, 21523, 21139, 20753, 20364, 19973, 19580, 19184, 18787, 18389, 17989, 17589, 17187, 16785] ++
  [16383, 15981, 15579, 15178, 14777, 14378, 13979, 13582, 13187, 12793, 12402, 12013, 11627, 11244, 10864, 10487] ++
  [10113, 9744, 9378, 9017, 8660, 8308, 7960, 7618, 7281, 6949, 6623, 6303, 5989, 5682, 5380, 5086] ++
  [4798, 4517, 4244, 3977, 3718, 3467, 3223, 2988, 2760, 2541, 2330, 2128, 1934, 1749, 1572, 1405] ++
  [1246, 1097, 957, 826, 705, 593, 490, 397, 314, 240, 177, 122, 78, 44, 19, 4]

/-- `COEF[k]`, cos of each bin frequency, 64 entries, Q1.15 (R176). -/
def romCoef : List Int :=
  [32737, 32734, 32729, 32725, 32719, 32714, 32707, 32699] ++
  [32691, 32682, 32671, 32659, 32646, 32631, 32614, 32595] ++
  [32574, 32550, 32524, 32494, 32460, 32423, 32381, 32333] ++
  [32280, 32220, 32154, 32079, 31995, 31900, 31795, 31676] ++
  [31543, 31394, 31227, 31040, 30831, 30596, 30334, 30040] ++
  [29711, 29343, 28932, 28473, 27960, 27388, 26750, 26039] ++
  [25248, 24369, 23392, 22309, 21110, 19784, 18322, 16713] ++
  [14947, 13014, 10906, 8616, 6140, 3477, 630, -2391]

/-- `SINK[k]`, sin of each bin frequency, 64 entries, Q1.15 (R176). -/
def romSink : List Int :=
  [1415, 1499, 1588, 1683, 1783, 1888, 2001, 2119] ++
  [2245, 2378, 2520, 2669, 2827, 2995, 3173, 3361] ++
  [3560, 3770, 3994, 4230, 4480, 4744, 5024, 5320] ++
  [5634, 5965, 6316, 6686, 7077, 7491, 7928, 8389] ++
  [8875, 9389, 9930, 10500, 11100, 11731, 12394, 13090] ++
  [13821, 14585, 15384, 16219, 17087, 17990, 18926, 19892] ++
  [20887, 21907, 22947, 24001, 25062, 26121, 27167, 28185] ++
  [29160, 30073, 30900, 31615, 32188, 32583, 32762, 32681]

/-- `LOUD[k]`, the loudness weights, 64 entries, Q16.16 (R201). -/
def romLoud : List Int :=
  [7254, 7918, 8623, 9371, 10163, 10998, 11878, 12804] ++
  [13775, 14792, 15856, 16967, 18125, 19330, 20582, 21879] ++
  [23222, 24608, 26037, 27505, 29011, 30551, 32121, 33717] ++
  [35333, 36964, 38604, 40245, 41881, 43505, 45108, 46683] ++
  [48224, 49722, 51172, 52566, 53900, 55170, 56370, 57498] ++
  [58553, 59531, 60434, 61259, 62009, 62682, 63281, 63807] ++
  [64261, 64644, 64958, 65203, 65381, 65492, 65536, 65513] ++
  [65423, 65264, 65035, 64735, 64360, 63910, 63381, 62771]

/-- `FREQ[k]` in units of 0.0001 Hz, 64 entries (R176): informative, no rule reads it at run time. -/
def romFreq : List Nat :=
  [1100000, 1165409, 1234708, 1308128, 1385913, 1468324, 1555635, 1648138] ++
  [1746141, 1849972, 1959977, 2076523, 2200000, 2330819, 2469417, 2616256] ++
  [2771826, 2936648, 3111270, 3296276, 3492282, 3699944, 3919954, 4153047] ++
  [4400000, 4661638, 4938833, 5232511, 5543653, 5873295, 6222540, 6592551] ++
  [6984565, 7399888, 7839909, 8306094, 8800000, 9323275, 9877666, 10465023] ++
  [11087305, 11746591, 12445079, 13185102, 13969129, 14799777, 15679817, 16612188] ++
  [17600000, 18646550, 19755332, 20930045, 22174610, 23493181, 24890159, 26370205] ++
  [27938259, 29599554, 31359635, 33224376, 35200000, 37293101, 39510664, 41860090]

/-- `PCMAP[k] = (k + 9) mod 12` for each bin (R221). -/
def romPcmap : List Nat := (List.range 64).map fun k => (k + 9) % 12

/-- The reference configuration `ref1` (R7). -/
def ref1 : Cfg where
  fs := 16000
  n := 128
  nb := 64
  freq := romFreq
  cos := romCos
  w128 := romW128
  wt := romWT
  coef := romCoef
  sink := romSink
  loud := romLoud
  pcmap := romPcmap
  bands := [(0, 16), (16, 32), (32, 48), (48, 64)]
  pcCeil := 65536
  bandCeil := 65536
  fluxCeil := 65536
  nt := 256
  tbands := [(1, 4), (4, 16), (16, 64), (64, 128)]
  medDepth := 8
  mixw := [32768, 16384, 9830, 6554]
  h := 512
  bpmMin := 80
  bpmMax := 180
  alphaTg := 6554
  near := 58982
  blend := 32768
  holdTicks := 125
  holdBonus := 3277
  mSlow := 9830
  mFast := 3277
  heavyN := 1
  slew := 105
  pllGain := 8192
  pllMaxc := 32768
  beatWin := 16384
  alphaConf := 3277
  confOn := 22938
  confOff := 16384
  alphaSil := 655
  silFloor := 66
  alphaSl := 1311

/-- The configuration the host's names `step`, `exec` and `State.reset` run with: `ref1` (R7, R96; log 5). Every
function of the machine takes its configuration as an argument. -/
def cfg : Cfg := ref1

/-- `FR = FS/N`, the tick rate in Hz (R7). -/
def frameRate (c : Cfg) : Nat := c.fs / c.n

/-- `L_MIN = cdiv(60·FS, N·BPM_MAX)`, the shortest lag in ticks (R271). -/
def lMin (c : Cfg) : Nat := (60 * c.fs + c.n * c.bpmMax - 1) / (c.n * c.bpmMax)

/-- `L_MAX = fdiv(60·FS, N·BPM_MIN)`, the longest lag in ticks (R271). -/
def lMax (c : Cfg) : Nat := 60 * c.fs / (c.n * c.bpmMin)

/-- The lags `[L_MIN, L_MAX]` in increasing order (R271). -/
def lags (c : Cfg) : List Nat := (List.range (lMax c + 1 - lMin c)).map (· + lMin c)

/-- `W_SUM = Σ W128[n]` (R175). -/
def wSum (c : Cfg) : Int := c.w128.sum

/-- `WT_SUM = Σ WT[n]` (R244). -/
def wtSum (c : Cfg) : Int := c.wt.sum

/-- Words of the published frame: 2 for the header fields, `cdiv(N, 2)` of packed samples, 2 levels, two arrays of
`NB` magnitudes, 12 pitch classes, 4 bands, 6 tempo and novelty words and the flag word (R81, R96); 219 in ref1. That an odd `N` leaves half a
word unused is the model's choice (log 21). -/
def slotWords (c : Cfg) : Nat := 2 + (c.n + 1) / 2 + 2 + c.nb + c.nb + 12 + 4 + 6 + 1

/-- `FRAME_BYTES`, 876 in ref1 (R7, R81). -/
def frameBytes (c : Cfg) : Nat := 4 * slotWords c

/-- Half-open ranges that are non-empty, each contiguous with the next, and inside `[bot, top)` (R8). -/
def rangesOk (bot top : Nat) : List (Nat × Nat) → Bool
  | [] => true
  | [(lo, hi)] => bot ≤ lo && lo < hi && hi ≤ top
  | (lo, hi) :: (lo', hi') :: rest =>
    bot ≤ lo && lo < hi && hi == lo' && rangesOk bot top ((lo', hi') :: rest)

/-- A smoothing coefficient in `[1, 65536]` (R8). -/
def alphaOk (a : Int) : Bool := 1 ≤ a && a ≤ 65536

/-- The invariants any configuration must meet (R8); one that breaks them has no meaning and is refused (I-5). R8 says
nothing of how many entries the tables and range lists have, and neither does this: a configuration whose COS, W128, WT,
COEF, SINK, LOUD, PCMAP, MIXW, BANDS or TBANDS has another length runs (DESIGN CHOICE, log 21). -/
def cfgValid (c : Cfg) : Bool :=
  c.fs % c.n == 0 && c.nt == 2 * c.n
    && 1 ≤ lMin c && lMin c ≤ lMax c && lMax c < c.h
    && 1 ≤ c.nb
    && rangesOk 0 c.nb c.bands && rangesOk 1 (c.nt / 2) c.tbands
    && alphaOk c.alphaTg && alphaOk c.alphaConf && alphaOk c.alphaSil && alphaOk c.alphaSl
    && c.confOff < c.confOn && 1 ≤ c.heavyN

end Sys2Proof.Machine
end

