-- ==== Sys2Proof/Machine/State.lean ====
section
/-! DEFINITION. The state of the block as plain data (10_state.md R40 to R61), the reasons a step can stop, and
the state right after reset (R391). Arrays are lists whose lengths the reset fixes and every tick keeps. -/

namespace Sys2Proof.Machine

/-! ### Producer state -/

/-- The five tunable registers `x[0]` to `x[4]` (R42). -/
structure Tunables where
  /-- `x[0]`, `SPEC_SMOOTH_ALPHA`; no stage reads it (D15). -/
  specSmooth : Word
  /-- `x[1]`, `PP_ATTACK_ALPHA`. -/
  ppAttack : Word
  /-- `x[2]`, `PP_RELEASE_ALPHA`. -/
  ppRelease : Word
  /-- `x[3]`, `PP_KNEE`. -/
  ppKnee : Word
  /-- `x[4]`, `PP_FLOOR_ALPHA`. -/
  ppFloor : Word
  deriving DecidableEq, Repr

/-- Post-processor state, one entry for each bin (R47). -/
structure Post where
  /-- `S.floor[k]`. -/
  floor : List Word
  /-- `S.smooth[k]`. -/
  smooth : List Word
  deriving DecidableEq, Repr

/-- Tempo front-end state: ingest, median rings and novelty history (R49, R50, R51). Rings are oldest first. -/
structure Front where
  /-- `S.tbuf[n]`, the sliding window of i16 samples, oldest first. -/
  tbuf : List Half
  /-- `S.tfill`. -/
  tfill : Half
  /-- `S.mprev[j]` for `j` in `[1, NT/2)`; entry `j - 1` holds `S.mprev[j]`. -/
  mprev : List Word
  /-- `S.have_prev`. -/
  havePrev : Bool
  /-- `S.med[b]`, one ring for each onset band. -/
  med : List (List Word)
  /-- `S.hmix`. -/
  hmix : List Word
  /-- `S.hlow`. -/
  hlow : List Word
  /-- `S.hmh`. -/
  hmh : List Word
  deriving DecidableEq, Repr

/-- Tempo tracker state: tempograms, lanes, PLL, confidence and silence (R52 to R55). -/
structure Track where
  /-- `S.tmix[L]`; entry `L - L_MIN` holds `S.tmix[L]`. -/
  tmix : List Word
  /-- `S.tmh[L]`; entry `L - L_MIN` holds `S.tmh[L]`. -/
  tmh : List Word
  /-- `S.sel`: 0 half, 1 same, 2 one-and-a-half, 3 double. -/
  sel : BitVec 2
  /-- `S.hold`. -/
  hold : Half
  /-- `S.have_peak`. -/
  havePeak : Bool
  /-- `S.ptarget`, Q16.16 ticks. -/
  ptarget : Word
  /-- `S.phitarget`, ticks. -/
  phitarget : Half
  /-- `S.selscore`, Q16.16. -/
  selscore : Word
  /-- `S.prevphi[i]`. -/
  prevphi : List Half
  /-- `S.prevphi_v[i]`. -/
  prevphiV : List Bool
  /-- `S.heavy_ctr`. -/
  heavyCtr : Byte
  /-- `S.period`, Q16.16 ticks. -/
  period : Word
  /-- `S.phase`, Q16.16 ticks. -/
  phase : Word
  /-- `S.period_set`. -/
  periodSet : Bool
  /-- `S.conf`, Q16.16. -/
  conf : Word
  /-- `S.conf_on`. -/
  confOn : Bool
  /-- `S.nov_energy`. -/
  novEnergy : Word
  /-- `S.silent`. -/
  silent : Bool
  /-- `S.sil_level`, Q16.16. -/
  silLevel : Word
  deriving DecidableEq, Repr

/-- A frame record with the fields of R81; the staging frame `F` is one (R57). -/
structure Frame where
  epoch : Word
  timestamp : Word
  wave : List Half
  peak : Word
  rms : Word
  raw : List Word
  smooth : List Word
  pitch : List Word
  band : List Word
  novelty : Word
  bpm : Word
  phase : Word
  strength : Word
  confidence : Word
  silence : Word
  beatFlag : Byte
  tempoReady : Byte
  pad : Half
  deriving DecidableEq, Repr

/-! ### Bus state -/

/-- The bytes of the public slot as a canonical list: addresses strictly rising, no byte equal to 0, which is
what an unlisted address reads as (R58, R391; log 3). -/
abbrev Memory := List Host.Cell

/-- The bus state: the public slot, the epoch and the write sequence (R58). -/
structure Bus where
  /-- `S.slot`. -/
  slot : Memory
  /-- `S.epoch`. -/
  epoch : Word
  /-- `S.wseq`. -/
  wseq : Word
  deriving DecidableEq, Repr

/-! ### Ports -/

/-- The status of a response (R118). Codes 0x04 to 0xFF are never sent, so they have no constructor (I-8). -/
inductive Status where
  | ok
  | okClamped
  | noData
  | illegal
  deriving DecidableEq, Repr

/-- The next bus write of a writer's sequence: `S.wseq` to odd, slot word `w`, `S.wseq` to even, `S.epoch`
(R150, R155). -/
inductive WritePhase where
  | openSeq
  | word (w : Nat)
  | closeSeq
  | epoch
  deriving DecidableEq, Repr

/-- The next bus read of a SNAPSHOT attempt: `S.wseq` (s1), slot word `w`, `S.wseq` (s2), `S.epoch` with the s2
that was read (R88, R152). -/
inductive ReadPhase where
  | seq1
  | word (w : Nat)
  | seq2
  | epoch (s2 : Word)
  deriving DecidableEq, Repr

/-- A command a port is running one bus access at a time: the bookkeeping R41 allows a model and the reader
state of R59. -/
inductive Busy where
  /-- PROCESS_CHUNK in its PUBLISH sequence (R150), with the status it will answer. -/
  | publish (ph : WritePhase) (st : Status)
  /-- SOFT_RESET in its bus sequence (R155). -/
  | clear (ph : WritePhase)
  /-- SNAPSHOT: attempts left, this one included; the next read; `s1`; the words of `out` read so far (R59). -/
  | snap (left : Nat) (ph : ReadPhase) (s1 : Word) (out : List Word)
  deriving DecidableEq, Repr

/-- One port: its command stream, the words it has sent, and the command it is running, if any (R59, R80, R110). -/
structure PortState where
  /-- Command words not yet taken, oldest first. -/
  cmds : List Word
  /-- Response words sent, oldest first (log 6). -/
  resp : List Word
  /-- The command in progress. -/
  busy : Option Busy
  deriving DecidableEq, Repr

/-- One move of one agent, or of the world outside the block (R86, R110, R390; log 1, log 2). -/
inductive Turn where
  /-- The agent of the port takes its next command whole; if it is in the middle of one, its next bus access. -/
  | run (p : Port)
  /-- The agent of the port starts its next command, or makes the next bus access of the one in progress. -/
  | access (p : Port)
  /-- The host, or a consumer, writes words to the port's command stream (R110). -/
  | deliver (p : Port) (ws : List Word)
  /-- The same through a transport that serialises words into bytes (R83, R84). -/
  | deliverBytes (p : Port) (bs : List Byte)
  /-- The reset line (R390). -/
  | hardReset
  deriving DecidableEq, Repr

/-- The state of the block. -/
structure State where
  /-- The tunable registers (R42). -/
  tun : Tunables
  /-- `S.tick` (R45). -/
  tick : Word
  /-- `S.guard` (R45). -/
  guard : Word
  /-- `S.ready_last` (R44). -/
  readyLast : Bool
  /-- Post-processor state (R47). -/
  post : Post
  /-- `S.rawprev[k]`, flux state (R48). -/
  rawprev : List Word
  /-- Tempo front-end state (R49 to R51). -/
  front : Front
  /-- Tempo tracker state (R52 to R55). -/
  track : Track
  /-- The staging frame `F` (R57). -/
  frame : Frame
  /-- Bus state (R58). -/
  bus : Bus
  /-- The control port P. -/
  ctl : PortState
  /-- The reader ports; port `r` is entry `r - 1` (R370). -/
  readers : List PortState
  /-- The port whose command is being run; the model's own bookkeeping (log 7). -/
  cur : Port
  /-- The moves to come, the environment's choice; the model's own field (log 1, log 7). -/
  turns : List Turn
  deriving DecidableEq, Repr

/-! ### How a step can stop -/

/-- Why the machine stops with a fault. The spec's block has none at steady state (R360, R366). -/
inductive Fault where
  /-- A bus access to a slot word that does not exist, `w ≥ 219` (R82). Raised by an `access` or `run` turn of
  a port whose command in progress stands at such a word, which no run reaches. Safe. -/
  | slotAddress (w : Nat)
  deriving DecidableEq, Repr

/-- Why the machine has no meaning for what it is asked. -/
inductive Refusal where
  /-- The dispatch has no meaning for the instruction yet. Raised by no arm of this model. Safe. -/
  | notModelled (mnemonic : String)
  /-- The configuration breaks R8, so it has no meaning (I-5). Raised by every step under it. Safe. -/
  | invalidConfig
  /-- A transport delivered a partial word (R84, I-10). Raised by a `deliverBytes` turn. Safe. -/
  | partialWord
  /-- A turn names a port the block does not have (R370). Safe. -/
  | noSuchPort (p : Port)
  deriving DecidableEq, Repr

/-! ### Reset -/

/-- Reset values of the tunable registers (R42, R391). -/
def Tunables.reset : Tunables :=
  { specSmooth := 32768, ppAttack := 32768, ppRelease := 3277, ppKnee := 16384, ppFloor := 131 }

/-- Reset values of the post-processor (R47, R391). -/
def Post.reset (c : Cfg) : Post := { floor := List.replicate c.nb 0, smooth := List.replicate c.nb 0 }

/-- Reset values of the tempo front end (R49 to R51, R391). `S.mprev[j]` is for `j` in `[1, 128)` in `ref1`; for another
`NT` the model takes `[1, NT/2)` (DESIGN CHOICE, log 21). -/
def Front.reset (c : Cfg) : Front :=
  { tbuf := List.replicate c.nt 0, tfill := 0, mprev := List.replicate (c.nt / 2 - 1) 0, havePrev := false,
    med := List.replicate 4 [], hmix := [], hlow := [], hmh := [] }

/-- Reset values of the tempo tracker (R52 to R55, R391). -/
def Track.reset (c : Cfg) : Track :=
  { tmix := List.replicate (lMax c + 1 - lMin c) 0, tmh := List.replicate (lMax c + 1 - lMin c) 0,
    sel := 1, hold := 0, havePeak := false, ptarget := 0, phitarget := 0, selscore := 0,
    prevphi := List.replicate 4 0, prevphiV := List.replicate 4 false, heavyCtr := 0,
    period := 0, phase := 0, periodSet := false,
    conf := 0, confOn := false, novEnergy := 0, silent := true, silLevel := 65536 }

/-- The staging frame at reset, all zeros (R57, R391). -/
def Frame.zero (c : Cfg) : Frame :=
  { epoch := 0, timestamp := 0, wave := List.replicate c.n 0, peak := 0, rms := 0,
    raw := List.replicate c.nb 0, smooth := List.replicate c.nb 0, pitch := List.replicate 12 0,
    band := List.replicate 4 0, novelty := 0, bpm := 0, phase := 0, strength := 0, confidence := 0,
    silence := 0, beatFlag := 0, tempoReady := 0, pad := 0 }

/-- Bus state at hardware reset (R58, R391). -/
def Bus.reset : Bus := { slot := [], epoch := 0, wseq := 0 }

/-- A port with nothing on its streams and no command in progress (R390, R391). -/
def PortState.idle : PortState := { cmds := [], resp := [], busy := none }

/-- The block of a configuration with `k` reader ports right after a hardware reset, with nothing sent on any
port (R7, R390, R391). The spec gives `K_READERS` for values of at least 1 only; with `k = 0` the block has no reader
port and is otherwise the same (DESIGN CHOICE, log 4). -/
def State.resetWith (c : Cfg) (k : Nat) : State :=
  { tun := Tunables.reset, tick := 0, guard := 0, readyLast := false, post := Post.reset c,
    rawprev := List.replicate c.nb 0, front := Front.reset c, track := Track.reset c, frame := Frame.zero c,
    bus := Bus.reset, ctl := PortState.idle, readers := List.replicate k PortState.idle,
    cur := .control, turns := [] }

/-- The block of the reference configuration right after a hardware reset (R390, R391). -/
def State.reset : State := State.resetWith cfg Config.readers

end Sys2Proof.Machine
end

