-- ==== Sys2Proof/Machine/Arith.lean ====
section
/-! DEFINITION. The exact integer primitives of R12 and R13, the rings of R15, and the reading and writing of
stored fields (R9). -/

namespace Sys2Proof.Machine

/-- `sat16(v)` (R12). -/
def sat16 (v : Int) : Int := max (-32768) (min 32767 v)

/-- `sat32(v)` (R12). -/
def sat32 (v : Int) : Int := max (-2147483648) (min 2147483647 v)

/-- `clamp(v, lo, hi)` (R12). -/
def clampInt (v lo hi : Int) : Int := max lo (min hi v)

/-- `asr(v, s) = floor(v / 2^s)` (R12). -/
def asr (v : Int) (s : Nat) : Int := v / 2 ^ s

/-- `fdiv(a, b) = floor(a / b)`, for `b > 0` (R12). For `b = 0` it answers 0, and for `b < 0` the Euclidean quotient,
which the spec does not define (DESIGN CHOICE, log 10). -/
def fdiv (a b : Int) : Int := a / b

/-- `cdiv(a, b) = ceil(a / b)`, for `b > 0` (R12). For `b = 0` it answers 0, and for `b < 0` the Euclidean quotient of
`-a`, negated, which the spec does not define (DESIGN CHOICE, log 10). -/
def cdiv (a b : Int) : Int := -(-a / b)

/-- `tdiv(a, b)`, rounded toward zero, for `b ≠ 0` (R12). For `b = 0` it answers 0 (DESIGN CHOICE, log 10). -/
def tdiv (a b : Int) : Int := a.tdiv b

/-- The Euclidean remainder `a mod b`, in `[0, b)` for `b > 0` (R12). For `b = 0` it answers the dividend `a`, and for
`b < 0` the Euclidean remainder, in `[0, -b)`, which the spec does not define (DESIGN CHOICE, log 10). -/
def emod (a b : Int) : Int := a % b

/-- The largest `r' < 2^b` above `r` in steps of the lower `b` bits whose square is at most `v`. -/
def sqrtBits : Nat → Nat → Nat → Nat
  | 0, _, r => r
  | b + 1, v, r => if (r + 2 ^ b) * (r + 2 ^ b) ≤ v then sqrtBits b v (r + 2 ^ b) else sqrtBits b v r

/-- `isqrt(v)`, the largest `r` with `r·r ≤ v`, for `v ≥ 0` (R12). For `v < 0`, where the spec does not define it, it
answers 0 (DESIGN CHOICE, log 20). -/
def isqrt (v : Int) : Int := sqrtBits (v.toNat.log2 / 2 + 1) v.toNat 0

/-- `satadd(a, b, c) = min(a + b, c)` (R12). -/
def satadd (a b c : Int) : Int := min (a + b) c

/-- `rlag(P)`: a Q16.16 period rounded to the nearest integer, a half up (R12). -/
def rlag (p : Int) : Int := asr (p + 32768) 16

/-- `ema(s, x, a)`: the exponential-smoothing step, rounded away from zero (R13). -/
def ema (s x a : Int) : Int :=
  if x ≥ s then s + cdiv ((x - s) * a) 65536 else s - cdiv ((s - x) * a) 65536

/-- `push(ring, v, depth)`: append `v`, then drop the oldest element if the length is above `depth` (R15). -/
def push {α : Type} (ring : List α) (v : α) (depth : Nat) : List α :=
  if (ring ++ [v]).length > depth then (ring ++ [v]).drop 1 else ring ++ [v]

/-- The first element of a list at which `f` is largest; with an increasing list, the smallest one on ties. -/
def argmaxFirst (f : Nat → Int) : List Nat → Option Nat
  | [] => none
  | a :: rest => some (rest.foldl (fun best b => if f b > f best then b else best) a)

/-- The value of an unsigned field (R9). -/
def uval {w : Nat} (b : BitVec w) : Int := b.toNat

/-- The values of an array of u32 fields. -/
def uvals (l : List Word) : List Int := l.map uval

/-- A value stored in a u8 field (R9; log 11). -/
def u8 (v : Int) : Byte := BitVec.ofInt 8 v

/-- A value stored in a u16 or i16 field (R9; log 11). -/
def u16 (v : Int) : Half := BitVec.ofInt 16 v

/-- A value stored in a u32 field (R9; log 11). -/
def u32 (v : Int) : Word := BitVec.ofInt 32 v

/-- A `bool` as the integer 0 or 1 (R9). -/
def bit (b : Bool) : Int := if b then 1 else 0

/-- Entry `i` of an array of values. An index outside it reads as 0 (DESIGN CHOICE): no rule reads there in a state of
`ref1` whose arrays have the lengths of reset (log 11), and of another configuration it is what a table that is too
short reads as (log 21). -/
def at0 (l : List Int) (i : Nat) : Int := l.getD i 0

end Sys2Proof.Machine
end

