-- ==== Sys2Proof/Machine/Ops.lean ====
section
/-! DEFINITION. The shared operations: slot memory (R82), bus accesses (R85 to R88), the frame as words (R81),
ports, responses (R114) and raising a status, which is the block's whole exception entry (R360). -/

namespace Sys2Proof.Machine

/-! ### The public slot as bytes -/

/-- What an unlisted byte of the slot reads as: 0, its reset contents (R58, R391). -/
def defaultByte : Byte := 0

/-- The byte at an address (R82). -/
def Memory.read : Memory → Nat → Byte
  | [], _ => defaultByte
  | (a, b) :: rest, x => if a = x then b else Memory.read rest x

/-- Store a byte, keeping the canonical form: addresses rising, no byte equal to the default. -/
def Memory.write : Memory → Nat → Byte → Memory
  | [], x, v => if v = defaultByte then [] else [(x, v)]
  | (a, b) :: rest, x, v =>
    if a < x then (a, b) :: Memory.write rest x v
    else if a = x then (if v = defaultByte then rest else (x, v) :: rest)
    else if v = defaultByte then (a, b) :: rest
    else (x, v) :: (a, b) :: rest

/-- Addresses strictly rising, from `lo` up to but not including `top`, and no byte equal to the default. -/
def Memory.wfFrom (top : Nat) : Nat → Memory → Bool
  | _, [] => true
  | lo, (a, b) :: rest => decide (lo ≤ a) && decide (a < top) && decide (b ≠ defaultByte) && Memory.wfFrom top (a + 1) rest

/-- The canonical form of the slot of a configuration: its bytes 0 to `FRAME_BYTES - 1` (R7, R81). -/
def Memory.wfWith (c : Cfg) (m : Memory) : Bool := Memory.wfFrom (frameBytes c) 0 m

/-- The canonical form of the slot of the reference configuration. -/
def Memory.wf (m : Memory) : Bool := m.wfWith cfg

/-- `MemRead(w, 1)`: slot word `w`, its byte at the lowest address in bits [7:0] (R82, R83). -/
def Memory.readWord (m : Memory) (w : Nat) : Word :=
  wordOfBytes (m.read (4 * w)) (m.read (4 * w + 1)) (m.read (4 * w + 2)) (m.read (4 * w + 3))

/-- `MemWrite(w, 1, v)`: store slot word `w` (R82, R83). -/
def Memory.writeWord (m : Memory) (w : Nat) (v : Word) : Memory :=
  (((m.write (4 * w) (v.extractLsb' 0 8)).write (4 * w + 1) (v.extractLsb' 8 8)).write
    (4 * w + 2) (v.extractLsb' 16 8)).write (4 * w + 3) (v.extractLsb' 24 8)

/-- The slot as its words in order, the data of a SNAPSHOT with nothing written meanwhile (R117, R152). -/
def Memory.words (c : Cfg) (m : Memory) : List Word := (List.range (slotWords c)).map m.readWord

/-! ### The frame as words -/

/-- The words of the encoding of a frame record, in the order of the layout, each array with as many entries as the
configuration gives it (R81, R82, R83, R96). -/
def frameWords (f : Frame) : List Word :=
  [f.epoch, f.timestamp] ++ packHalves f.wave ++ [f.peak, f.rms] ++ f.raw ++ f.smooth ++ f.pitch ++ f.band
    ++ [f.novelty, f.bpm, f.phase, f.strength, f.confidence, f.silence]
    ++ [f.pad ++ f.tempoReady ++ f.beatFlag]

/-- `frame_word(F, w)` (R82). -/
def frameWord (f : Frame) (w : Nat) : Word := (frameWords f).getD w 0

/-- `decode_frame(out)`: the fields of the frame that the slot's words encode (R81, R82). -/
def decodeFrame (c : Cfg) (out : List Word) : Frame :=
  let n := (c.n + 1) / 2
  let last := out.getD (slotWords c - 1) 0
  let tail := out.drop (4 + n + c.nb + c.nb + 16)
  { epoch := out.getD 0 0
    timestamp := out.getD 1 0
    wave := unpackSamples c.n ((out.drop 2).take n)
    peak := out.getD (2 + n) 0
    rms := out.getD (3 + n) 0
    raw := (out.drop (4 + n)).take c.nb
    smooth := (out.drop (4 + n + c.nb)).take c.nb
    pitch := (out.drop (4 + n + c.nb + c.nb)).take 12
    band := (out.drop (4 + n + c.nb + c.nb + 12)).take 4
    novelty := tail.getD 0 0
    bpm := tail.getD 1 0
    phase := tail.getD 2 0
    strength := tail.getD 3 0
    confidence := tail.getD 4 0
    silence := tail.getD 5 0
    beatFlag := last.extractLsb' 0 8
    tempoReady := last.extractLsb' 8 8
    pad := last.extractLsb' 16 16 }

/-! ### Bus accesses: each of these is one word access of R85 -/

/-- `S.wseq <- (S.wseq + 1) mod 2^32` (R150, R155). -/
def State.bumpSeq (s : State) : State := { s with bus := { s.bus with wseq := s.bus.wseq + 1 } }

/-- `MemWrite(w, 1, v)` on the public slot (R82). -/
def State.writeSlot (s : State) (w : Nat) (v : Word) : State :=
  { s with bus := { s.bus with slot := s.bus.slot.writeWord w v } }

/-- `S.epoch <- e` (R150, R155). -/
def State.setEpoch (s : State) (e : Word) : State := { s with bus := { s.bus with epoch := e } }

/-- The slot writes of one sequence in increasing word order: word `w`, `w + 1`, … of the list (R87). -/
def State.writeSlots (s : State) : Nat → List Word → State
  | _, [] => s
  | w, v :: rest => (s.writeSlot w v).writeSlots (w + 1) rest

/-- A writer's whole bus sequence with no other agent between its accesses: `S.wseq` to odd, the words in
order, `S.wseq` to even, `S.epoch` last (R87, R150, R155). -/
def State.writeSequence (s : State) (ws : List Word) (e : Word) : State :=
  ((s.bumpSeq.writeSlots 0 ws).bumpSeq).setEpoch e

/-- The epoch of the next publication: never 0, and 1 after 0xFFFF_FFFF (R150, R151). -/
def nextEpoch (e : Word) : Word := if e = 0xFFFFFFFF then 1 else e + 1

/-- The words SOFT_RESET writes to the slot: zeros (R155). -/
def zeroWords (c : Cfg) : List Word := List.replicate (slotWords c) 0

/-! ### Counters -/

/-- One guard event: `S.guard` plus 1, saturating at 0xFFFF_FFFF (R45). -/
def State.guardEvent (s : State) : State :=
  { s with guard := if s.guard = 0xFFFFFFFF then s.guard else s.guard + 1 }

/-! ### Ports and responses -/

/-- The state of a port, if the block has it (R365, R370). -/
def State.port? (s : State) : Port → Option PortState
  | .control => some s.ctl
  | .reader 0 => none
  | .reader (r + 1) => s.readers[r]?

/-- Change the state of one port; a port the block does not have stays absent. -/
def State.modPort (s : State) (p : Port) (f : PortState → PortState) : State :=
  { s with
    ctl := match p with | .control => f s.ctl | .reader _ => s.ctl
    readers := match p with | .reader (r + 1) => s.readers.modify r f | _ => s.readers }

/-- The status code of a response (R118). -/
def Status.code : Status → Byte
  | .ok => 0x00
  | .okClamped => 0x01
  | .noData => 0x02
  | .illegal => 0x03

/-- The response header word: `STATUS` in bits [31:24], 0 in [23:16], `COUNT` in [15:0] (R114). -/
def header (st : Status) (count : Nat) : Word := st.code ++ (0 : Byte) ++ BitVec.ofNat 16 count

/-- The words of a response: the header, then the data words in order (R110, R114, R117). -/
def response (st : Status) (data : List Word) : List Word := header st data.length :: data

/-- Send a response on a port. -/
def State.respondOn (s : State) (p : Port) (st : Status) (data : List Word) : State :=
  s.modPort p fun ps => { ps with resp := ps.resp ++ response st data }

/-- Send the response of the command being run on its port. -/
def State.respond (s : State) (st : Status) (data : List Word) : State := s.respondOn s.cur st data

/-- `raise <Status>`: end the command with this status and no data (R14, R360). It is the block's whole
exception entry: nothing is saved, no vector is taken, and there is no return from it (R366, R367). -/
def State.raise (s : State) (st : Status) : State := s.respond st []

/-- Set or clear the command in progress on a port (R41, R59). -/
def State.setBusy (s : State) (p : Port) (b : Option Busy) : State :=
  s.modPort p fun ps => { ps with busy := b }

/-! ### Reset -/

/-- Every producer state element of R42 to R57 at its reset value (R344, R391). -/
def State.resetProducer (c : Cfg) (s : State) : State :=
  { s with
    tun := Tunables.reset, tick := 0, guard := 0, readyLast := false, post := Post.reset c,
    rawprev := List.replicate c.nb 0, front := Front.reset c, track := Track.reset c, frame := Frame.zero c }

/-- A port after a hardware reset: its command in progress abandoned without a response, its command stream
empty; the words it has sent stay sent (R390; log 6). -/
def PortState.reset (ps : PortState) : PortState := { PortState.idle with resp := ps.resp }

/-- Hardware reset (R390). The block keeps its ports, the words they have sent, and the moves to come, which
are not the block's. -/
def State.hardReset (c : Cfg) (s : State) : State :=
  { State.resetWith c s.readers.length with
    ctl := s.ctl.reset, readers := s.readers.map PortState.reset, turns := s.turns }

end Sys2Proof.Machine
end

