-- ==== Sys2Proof/Machine/Flags.lean ====
section
/-! DEFINITION. The block's flags: the word `FLAGS` (R44) and the history-full bit (R51, R56). -/

namespace Sys2Proof.Machine

/-- "Full": `len(S.hmix) = H` (R51). -/
def histFull (c : Cfg) (f : Front) : Bool := f.hmix.length == c.h

/-- One bit of a word at a place. -/
def bitAt (b : Bool) (i : Nat) : Word := if b then BitVec.twoPow 32 i else 0

/-- `FLAGS`: ready, confidence, silence, history full, lane is same, period set, have previous, have peak in
bits 0 to 7, the lane in bits 9:8, and 0 in every other bit (R44). -/
def flagsWord (c : Cfg) (readyLast : Bool) (f : Front) (t : Track) : Word :=
  bitAt readyLast 0 ||| bitAt t.confOn 1 ||| bitAt t.silent 2 ||| bitAt (histFull c f) 3
    ||| bitAt (t.sel == 1) 4 ||| bitAt t.periodSet 5 ||| bitAt f.havePrev 6 ||| bitAt t.havePeak 7
    ||| (t.sel.setWidth 32 <<< 8)

end Sys2Proof.Machine
end

