-- ==== Sys2Proof/Machine/Operands.lean ====
section
/-! DEFINITION. The operands selectors name: the tunable registers with their legal ranges (R42) and the
read-only status registers (R43). The samples and fields of a command word are read in Decode.lean. -/

namespace Sys2Proof.Machine

/-- The legal range of a tunable register (R42). -/
def tunableRange : Nat → Nat × Nat
  | 3 => (256, 262144)
  | _ => (1, 65536)

/-- `x[id]`, for an implemented id (R42, R123). -/
def Tunables.get? (t : Tunables) : Nat → Option Word
  | 0 => some t.specSmooth
  | 1 => some t.ppAttack
  | 2 => some t.ppRelease
  | 3 => some t.ppKnee
  | 4 => some t.ppFloor
  | _ => none

/-- `x[id] <- v`; an id that is not implemented changes nothing (R42, R123). -/
def Tunables.set (t : Tunables) (id : Nat) (v : Word) : Tunables :=
  match id with
  | 0 => { t with specSmooth := v }
  | 1 => { t with ppAttack := v }
  | 2 => { t with ppRelease := v }
  | 3 => { t with ppKnee := v }
  | 4 => { t with ppFloor := v }
  | _ => t

/-- The value SET_TUNABLE writes: `clamp(v, lo, hi)` of the register's range (R116, R340). -/
def clampTunable (id : Nat) (v : Word) : Word :=
  u32 (clampInt (uval v) (tunableRange id).1 (tunableRange id).2)

/-- The status register of an index, for an implemented index (R43). -/
def State.status? (c : Cfg) (s : State) : Nat → Option Word
  | 0 => some s.tick
  | 1 => some s.bus.epoch
  | 2 => some (flagsWord c s.readyLast s.front s.track)
  | 3 => some s.guard
  | 4 => some (s.track.hold.setWidth 32)
  | 5 => some s.track.period
  | 6 => some s.track.phase
  | 7 => some s.track.conf
  | 8 => some (BitVec.ofNat 32 s.front.hmix.length)
  | 9 => some s.bus.wseq
  | _ => none

end Sys2Proof.Machine
end

