-- ==== Sys2Proof/Machine/Filterbank.lean ====
section
/-! DEFINITION. The first stages of a tick: chunk guard, DC removal, levels, window and resonators (R170 to R180). -/

namespace Sys2Proof.Machine

/-- Chunk assembly: the first `N` samples, a short chunk filled with zeros at its end (R170). -/
def assembleChunk (c : Cfg) (samples : List Half) : List Int :=
  (samples.take c.n).map BitVec.toInt ++ List.replicate (c.n - samples.length) 0

/-- The status of a chunk of `n` samples (R170). -/
def chunkStatus (c : Cfg) (samples : List Half) : Status :=
  if samples.length = c.n then .ok else .okClamped

/-- DC removal: `x'[i] = sat16(x[i] - mean)`, the mean rounded down (R171). -/
def removeDC (c : Cfg) (x : List Int) : List Int := x.map fun v => sat16 (v - fdiv x.sum c.n)

/-- `F.peak`, Q16.16 (R172). -/
def peakLevel (x : List Int) : Int := (x.foldl (fun m v => max m (v.natAbs : Int)) 0) * 2

/-- `F.rms`, Q16.16 (R172). -/
def rmsLevel (c : Cfg) (x : List Int) : Int := isqrt (fdiv (x.map fun v => v * v).sum c.n) * 2

/-- Windowing: `xw[n] = asr(x'[n]·W[n], 15)` (R177, R245). -/
def windowed (x w : List Int) : List Int := List.zipWith (fun v g => asr (v * g) 15) x w

/-- One step of the resonator recurrence on its states `(s1, s2)` (R179). -/
def resonatorStep (coef : Int) (st : Int × Int) (xw : Int) : Int × Int :=
  (sat32 (xw + asr (coef * st.1) 14 - st.2), st.1)

/-- The final states `(s1, s2)` of one bin over a chunk, both 0 at its start (R178, R179). -/
def resonate (coef : Int) (xw : List Int) : Int × Int := xw.foldl (resonatorStep coef) (0, 0)

/-- Reconstruction, magnitude, normalization and the clamp to [0, 1) of one bin (R180). -/
def binMagnitude (c : Cfg) (coef sink : Int) (st : Int × Int) : Int :=
  let re := st.1 * 32768 - st.2 * coef
  let im := st.2 * sink
  min (fdiv (4 * isqrt (re * re + im * im)) (wSum c)) 65535

/-- `raw[k]` for every bin, from the DC-removed chunk (R173, R177 to R180). -/
def filterbank (c : Cfg) (x : List Int) : List Int :=
  let xw := windowed x c.w128
  (List.range c.nb).map fun k =>
    binMagnitude c (at0 c.coef k) (at0 c.sink k) (resonate (at0 c.coef k) xw)

end Sys2Proof.Machine
end

