-- ==== Sys2Proof/Machine/Postproc.lean ====
section
/-! DEFINITION. The perceptual post-processor, bin by bin (R200 to R206). -/

namespace Sys2Proof.Machine

/-- Stage 1, loudness weighting (R202). -/
def loudness (raw loud : Int) : Int := min (fdiv (raw * loud) 65536) 65535

/-- Stage 2, the part above the floor from before this tick (R203). -/
def aboveFloor (w floor : Int) : Int := max 0 (w - floor)

/-- Stage 2, the floor after this tick (R203). -/
def nextFloor (w floor alpha : Int) : Int := ema floor w alpha

/-- Stage 3, the soft knee (R204). -/
def softKnee (d knee : Int) : Int := fdiv (d * 65536) (d + knee)

/-- Stage 4, attack or release smoothing by comparison with the value from before this tick (R205). -/
def nextSmooth (y smooth attack release : Int) : Int :=
  ema smooth y (if y > smooth then attack else release)

/-- The floor of one bin after a tick with this raw magnitude (R200). -/
def binFloor (t : Tunables) (loud raw floor : Int) : Int :=
  nextFloor (loudness raw loud) floor (uval t.ppFloor)

/-- The smoothed magnitude of one bin after a tick with this raw magnitude (R200). -/
def binSmooth (t : Tunables) (loud raw floor smooth : Int) : Int :=
  nextSmooth (softKnee (aboveFloor (loudness raw loud) floor) (uval t.ppKnee)) smooth
    (uval t.ppAttack) (uval t.ppRelease)

/-- The post-processor state after a tick (R200). -/
def postStage (c : Cfg) (t : Tunables) (raw : List Int) (p : Post) : Post :=
  { floor := (List.range c.nb).map fun k =>
      u32 (binFloor t (at0 c.loud k) (at0 raw k) (at0 (uvals p.floor) k))
    smooth := (List.range c.nb).map fun k =>
      u32 (binSmooth t (at0 c.loud k) (at0 raw k) (at0 (uvals p.floor) k) (at0 (uvals p.smooth) k)) }

end Sys2Proof.Machine
end

