-- ==== Sys2Proof/Machine/Summary.lean ====
section
/-! DEFINITION. Pitch classes, band summary and spectral flux (R220 to R223). -/

namespace Sys2Proof.Machine

/-- A saturating sum in increasing order (R221, R222). -/
def satSum (ceil : Int) (l : List Int) : Int := l.foldl (fun acc v => satadd acc v ceil) 0

/-- `F.pitch[cl]`: the saturating sum of the raw magnitudes of the bins of class `cl` (R221). -/
def pitchClass (c : Cfg) (raw : List Int) (cl : Nat) : Int :=
  satSum c.pcCeil (((List.range c.nb).filter fun k => c.pcmap.getD k 0 == cl).map (at0 raw))

/-- `F.pitch` (R221). -/
def pitchClasses (c : Cfg) (raw : List Int) : List Int := (List.range 12).map (pitchClass c raw)

/-- The bins of a half-open range in increasing order. -/
def binsOf (r : Nat × Nat) : List Nat := (List.range (r.2 - r.1)).map (· + r.1)

/-- `BANDS[b]`. Where a configuration has fewer than four ranges, which neither R8 nor R222 settles, a missing one is
empty, and ranges past the fourth are not read (DESIGN CHOICE, log 21). -/
def bandRange (c : Cfg) (b : Nat) : Nat × Nat := c.bands.getD b (0, 0)

/-- `F.band[b]` for `b` in [0, 4): the saturating sum of the smoothed magnitudes this tick has written (R222). -/
def bandSummary (c : Cfg) (smooth : List Int) : List Int :=
  (List.range 4).map fun b => satSum c.bandCeil ((binsOf (bandRange c b)).map (at0 smooth))

/-- The flux before its clamp (R223). -/
def fluxSum (c : Cfg) (raw prev : List Int) : Int :=
  ((List.range c.nb).map fun k => max 0 (at0 raw k - at0 prev k)).sum

/-- `F.novelty` (R223). -/
def fluxNovelty (c : Cfg) (raw prev : List Int) : Int := min (fluxSum c raw prev) c.fluxCeil

end Sys2Proof.Machine
end

