-- ==== Sys2Proof/Machine/TempoFront.lean ====
section
/-! DEFINITION. The tempo front end: sliding window, spectrum, onset bands, median baseline, mixing and history
(R240 to R251). -/

namespace Sys2Proof.Machine

/-- The novelty of one tick, handed to the tracker (R251). -/
structure Novelty where
  /-- `nov_valid`. -/
  valid : Bool
  /-- `mix`. -/
  mix : Int
  /-- `low`. -/
  low : Int
  /-- `mh`. -/
  mh : Int
  deriving DecidableEq, Repr

/-- A tick that made no novelty (R242, R251). -/
def noNovelty : Novelty := { valid := false, mix := 0, low := 0, mh := 0 }

/-- `COS[m mod 256]` (R174, R245). The spec prints the index for `NT = 256`; the model keeps the modulus 256 for every
`NT` (DESIGN CHOICE, log 21). -/
def cosAt (c : Cfg) (m : Nat) : Int := at0 c.cos (m % 256)

/-- `SIN[m] = COS[(m - 64) mod 256]` (R174), with the modulus 256 for every `NT` (DESIGN CHOICE, log 21). -/
def sinAt (c : Cfg) (m : Nat) : Int := at0 c.cos ((m + 192) % 256)

/-- The sum of `xw[n]·f(n)` over the window. -/
def windowSum (xw : List Int) (f : Nat → Int) : Int :=
  (xw.zipIdx.map fun p => p.1 * f p.2).sum

/-- `M[j]`, one bin of the exact DFT of the windowed samples (R245). -/
def spectrumBin (c : Cfg) (xw : List Int) (j : Nat) : Int :=
  let re := windowSum xw fun n => cosAt c (j * n)
  let im := -windowSum xw fun n => sinAt c (j * n)
  fdiv (4 * isqrt (re * re + im * im)) (wtSum c)

/-- `spectrum(b)`: entry `j - 1` holds `M[j]`, for `j` in `[1, 128)` in `ref1` (R245). The spec prints the bins for
`NT = 256`; for another `NT` the model takes `[1, NT/2)` (DESIGN CHOICE, log 21). -/
def spectrum (c : Cfg) (b : List Int) : List Int :=
  let xw := windowed b c.wt
  (List.range (c.nt / 2 - 1)).map fun i => spectrumBin c xw (i + 1)

/-- `onset[b]` for one range of DFT bins: the sum of the positive differences (R246). -/
def onsetBand (m prev : List Int) (r : Nat × Nat) : Int :=
  ((binsOf r).map fun j => max 0 (at0 m (j - 1) - at0 prev (j - 1))).sum

/-- `median(v)`: the middle of the sorted values, or the floor of the mean of the two middle ones (R247). Of no values,
which only `MED_DEPTH = 0` gives, it is 0 (DESIGN CHOICE, log 21). -/
def median (v : List Int) : Int :=
  let s := v.insertionSort (· ≤ ·)
  if v.length % 2 = 1 then at0 s ((v.length - 1) / 2)
  else fdiv (at0 s (v.length / 2 - 1) + at0 s (v.length / 2)) 2

/-- The median ring of a band after its onset is pushed (R247). -/
def pushMedian (c : Cfg) (ring : List Word) (onset : Int) : List Word := push ring (u32 onset) c.medDepth

/-- `nov[b]` of one band, from its onset and its ring with the onset in it (R247, R248). -/
def bandNovelty (onset : Int) (ring : List Word) : Int := max 0 (onset - median (uvals ring))

/-- The novelty triple of the four band novelties (R249). -/
def mixNovelty (c : Cfg) (nov : List Int) : Novelty :=
  { valid := true
    mix := fdiv (List.zipWith (· * ·) c.mixw nov).sum 65536
    low := at0 nov 0
    mh := min (nov.drop 1).sum 4294967295 }

/-- The sliding window after a chunk (R240). -/
def shiftWindow (c : Cfg) (tbuf : List Half) (x : List Int) : List Half := tbuf.drop c.n ++ x.map u16

/-- Whether the spectrum gate is open once the chunk is in (R240, R241). -/
def gateOpen (c : Cfg) (f : Front) : Bool := min (uval f.tfill + c.n) c.nt == c.nt

/-- The front end with the chunk shifted in (R240). -/
def ingest (c : Cfg) (x : List Int) (f : Front) : Front :=
  { f with tbuf := shiftWindow c f.tbuf x, tfill := u16 (min (uval f.tfill + c.n) c.nt) }

/-- Onset, median, novelty, mixing and history, at a tick with a previous spectrum (R246 to R250). -/
def onsetStage (c : Cfg) (m : List Int) (f : Front) : Front × Novelty :=
  let onsets := c.tbands.map (onsetBand m (uvals f.mprev))
  let rings := List.zipWith (pushMedian c) f.med onsets
  let nv := mixNovelty c (List.zipWith bandNovelty onsets rings)
  ({ f with
      med := rings
      hmix := push f.hmix (u32 nv.mix) c.h
      hlow := push f.hlow (u32 nv.low) c.h
      hmh := push f.hmh (u32 nv.mh) c.h }, nv)

/-- The spectrum becomes the previous one (R242). -/
def keepSpectrum (m : List Int) (f : Front) : Front := { f with mprev := m.map u32, havePrev := true }

/-- The tempo front end at one tick (R240 to R251). -/
def frontStage (c : Cfg) (x : List Int) (f : Front) : Front × Novelty :=
  if gateOpen c f then
    let f1 := ingest c x f
    let m := spectrum c (f1.tbuf.map BitVec.toInt)
    if f.havePrev then
      let r := onsetStage c m f1
      (keepSpectrum m r.1, r.2)
    else (keepSpectrum m f1, noNovelty)
  else (ingest c x f, noNovelty)

end Sys2Proof.Machine
end

