-- ==== Sys2Proof/Machine/TempoTrack.lean ====
section
/-! DEFINITION. The tempo tracker: tempograms, peaks, lanes, arbitration, PLL, confidence, silence and the tempo
outputs (R270 to R297). -/

namespace Sys2Proof.Machine

/-! ### Tempogram -/

/-- `E0`, the zero-lag energy (R273). -/
def zeroLag (h : List Int) : Int := (h.map fun v => v * v).sum

/-- `ac(L)`, the normalized autocorrelation (R273). -/
def autocorr (h : List Int) (l : Nat) : Int :=
  if zeroLag h = 0 then 0
  else fdiv ((List.zipWith (· * ·) (h.drop l) h).sum * 65536) (zeroLag h)

/-- `T[L]` of a tempogram (R52). -/
def tgAt (c : Cfg) (t : List Int) (l : Nat) : Int := at0 t (l - lMin c)

/-- The tempogram after a heavy update of the stream `h` (R273). -/
def tempogram (c : Cfg) (h t : List Int) : List Int :=
  (lags c).map fun l => ema (tgAt c t l) (autocorr h l) c.alphaTg

/-- Whether a lag is a peak of a tempogram (R274). -/
def isPeak (c : Cfg) (t : List Int) (l : Nat) : Bool :=
  tgAt c t l > 0 && (l == lMin c || tgAt c t l ≥ tgAt c t (l - 1))
    && (l == lMax c || tgAt c t l ≥ tgAt c t (l + 1))

/-- `peaks(T)` in increasing order (R274). -/
def peaks (c : Cfg) (t : List Int) : List Nat := (lags c).filter (isPeak c t)

/-- The largest value at a peak other than `l1`, or 0 (R275). -/
def secondPeak (c : Cfg) (t : List Int) (l1 : Nat) : Int :=
  ((peaks c t).filter (· ≠ l1)).foldl (fun m l => max m (tgAt c t l)) 0

/-! ### Lane candidates -/

/-- The base lag and the tempogram it was found on (R276). -/
def baseLag (c : Cfg) (tmix tmh : List Int) (l1 : Nat) : Nat × List Int :=
  match argmaxFirst (tgAt c tmh) (peaks c tmh) with
  | some lh => if tgAt c tmh lh ≥ fdiv (tgAt c tmix l1 * c.near) 65536 then (lh, tmh) else (l1, tmix)
  | none => (l1, tmix)

/-- `base`: the base lag with its parabolic offset, Q16.16 ticks (R277). -/
def basePeriod (c : Cfg) (lb : Nat) (t : List Int) : Int :=
  let a := tgAt c t (lb - 1)
  let b := tgAt c t lb
  let d := tgAt c t (lb + 1)
  let den := a - 2 * b + d
  let delta :=
    if lb = lMin c ∨ lb = lMax c then 0
    else if den ≥ 0 then 0
    else clampInt (tdiv ((a - d) * 32768) den) (-32768) 32768
  lb * 65536 + delta

/-- The tempo rate `num/den` of a lane: half, same, one-and-a-half, double (R278). -/
def laneRate : Nat → Int × Int
  | 0 => (1, 2)
  | 1 => (1, 1)
  | 2 => (3, 2)
  | _ => (2, 1)

/-- One lane at a heavy update (R278 to R282). -/
structure Lane where
  /-- `P_i`, Q16.16 ticks. -/
  period : Int
  /-- `valid_i`. -/
  valid : Bool
  /-- `Lc_i`. -/
  lag : Nat
  /-- `φmix_i`. -/
  phiMix : Nat
  /-- `φmh_i`. -/
  phiMh : Nat
  /-- `score_i`. -/
  score : Int
  /-- `fwd_i`. -/
  fwd : Bool
  deriving DecidableEq, Repr

/-- `P_i` (R278). -/
def lanePeriod (base : Int) (i : Nat) : Int := fdiv (base * (laneRate i).2) (laneRate i).1

/-- `valid_i` (R278). -/
def laneValid (c : Cfg) (p : Int) : Bool := lMin c * 65536 ≤ p && p ≤ lMax c * 65536

/-- `prom_i` (R279). -/
def prominence (c : Cfg) (tmix : List Int) (lc : Nat) (v2 : Int) : Int := max 0 (tgAt c tmix lc - v2)

/-- The sum of `hb[pos]` over the grid points `pos = φ + asr(m·P + 32768, 16)` from the given `m` on, while
`pos ≤ H - 1` (R280). At most `H` points are taken, which are all of them for a period of a tick or more. -/
def gridSum (c : Cfg) (hb : List Int) (p : Int) (phi : Nat) : Nat → Nat → Int
  | 0, _ => 0
  | fuel + 1, m =>
    let pos := phi + asr (m * p + 32768) 16
    if pos ≤ c.h - 1 then at0 hb pos.toNat + gridSum c hb p phi fuel (m + 1) else 0

/-- `E(φ)` (R280); `hb` is the ring indexed from the newest. -/
def combEnergy (c : Cfg) (hb : List Int) (p : Int) (phi : Nat) : Int := gridSum c hb p phi c.h 0

/-- `comb(h, P, Lc)`: the best offset `φ*` and the alignment (R280). -/
def comb (c : Cfg) (h : List Int) (p : Int) (lc : Nat) : Nat × Int :=
  let hb := h.reverse
  let phi := (argmaxFirst (combEnergy c hb p) (List.range lc)).getD 0
  (phi, if h.sum = 0 then 0 else fdiv (combEnergy c hb p phi * 65536) h.sum)

/-- `score_i` (R281). -/
def laneScore (c : Cfg) (prom align : Int) : Int :=
  fdiv (prom * c.blend + align * (65536 - c.blend)) 65536

/-- Whether a grid offset moved forward by 1 tick to half a lag (R282). -/
def movedForward (phi prev : Int) (lc : Nat) : Bool :=
  1 ≤ emod (phi - prev) lc && emod (phi - prev) lc ≤ asr lc 1

/-- Lane `i` of a heavy update; an invalid lane gets no score (R278 to R282). -/
def evalLane (c : Cfg) (hmix hmh tmix : List Int) (v2 base : Int) (tr : Track) (i : Nat) : Lane :=
  let p := lanePeriod base i
  if laneValid c p then
    let lc := (rlag p).toNat
    let mixed := comb c hmix p lc
    let midHigh := comb c hmh p lc
    { period := p, valid := true, lag := lc, phiMix := mixed.1, phiMh := midHigh.1
      score := laneScore c (prominence c tmix lc v2) mixed.2
      fwd := tr.prevphiV.getD i false && movedForward midHigh.1 (uval (tr.prevphi.getD i 0)) lc }
  else { period := p, valid := false, lag := 0, phiMix := 0, phiMh := 0, score := 0, fwd := false }

/-! ### Arbitration -/

/-- Lane `i` of the four; there are no others. -/
def laneAt (lanes : List Lane) (i : Nat) : Lane :=
  lanes.getD i { period := 0, valid := false, lag := 0, phiMix := 0, phiMh := 0, score := 0, fwd := false }

/-- `eff`: the incumbent's score with its bonus (R284). -/
def incumbentScore (c : Cfg) (hold score : Int) : Int :=
  min 65536 (score + if hold > c.holdTicks then c.holdBonus else 0)

/-- `qual_j` (R284). -/
def qualifies (c : Cfg) (eff incPeriod : Int) (j : Lane) : Bool :=
  if j.period ≥ incPeriod then j.score > eff + c.mSlow else j.score > eff + c.mFast && j.fwd

/-- The lane selected after arbitration, from the incumbent and its hold time (R283, R284). -/
def arbitrate (c : Cfg) (inc : Nat) (hold : Int) (lanes : List Lane) : Nat :=
  let score := fun i => (laneAt lanes i).score
  if (laneAt lanes inc).valid then
    let eff := incumbentScore c hold (score inc)
    let challengers := (List.range 4).filter fun j =>
      (laneAt lanes j).valid && j ≠ inc && qualifies c eff (laneAt lanes inc).period (laneAt lanes j)
    (argmaxFirst score challengers).getD inc
  else (argmaxFirst score ((List.range 4).filter fun j => (laneAt lanes j).valid)).getD inc

/-! ### The heavy update -/

/-- The tracker with both tempograms updated (R273). -/
def updateTempograms (c : Cfg) (f : Front) (tr : Track) : Track :=
  { tr with
    tmix := (tempogram c (uvals f.hmix) (uvals tr.tmix)).map u32
    tmh := (tempogram c (uvals f.hmh) (uvals tr.tmh)).map u32 }

/-- The four lanes of a heavy update whose strongest mix peak is `l1` (R275 to R282). -/
def heavyLanes (c : Cfg) (f : Front) (tr : Track) (l1 : Nat) : List Lane :=
  let tmix := uvals tr.tmix
  let b := baseLag c tmix (uvals tr.tmh) l1
  let base := basePeriod c b.1 b.2
  (List.range 4).map (evalLane c (uvals f.hmix) (uvals f.hmh) tmix (secondPeak c tmix l1) base tr)

/-- Selection and its results, with the lanes evaluated (R282 to R285). -/
def selectLane (c : Cfg) (lanes : List Lane) (tr : Track) : Track :=
  let sel := arbitrate c tr.sel.toNat (uval tr.hold) lanes
  { tr with
    prevphi := (List.range 4).map fun i =>
      if (laneAt lanes i).valid then u16 (laneAt lanes i).phiMh else tr.prevphi.getD i 0
    prevphiV := (List.range 4).map fun i => (laneAt lanes i).valid
    sel := BitVec.ofNat 2 sel
    ptarget := u32 (laneAt lanes sel).period
    phitarget := u16 (laneAt lanes sel).phiMix
    selscore := u32 (laneAt lanes sel).score
    havePeak := true }

/-- A heavy update: tempograms, then the lanes at the strongest mix peak, or the no-peak branch (R273 to R288). -/
def heavyUpdate (c : Cfg) (f : Front) (tr : Track) : Track :=
  let t1 := updateTempograms c f tr
  match argmaxFirst (tgAt c (uvals t1.tmix)) (peaks c (uvals t1.tmix)) with
  | none => { t1 with havePeak := false }
  | some l1 => selectLane c (heavyLanes c f t1 l1) t1

/-! ### The steps of one tick, in the order of R270 -/

/-- Step 1, the silence tracker (R292). -/
def silenceStep (c : Cfg) (nv : Novelty) (tr : Track) : Track :=
  let energy := ema (uval tr.novEnergy) (if nv.valid then nv.mix else 0) c.alphaSil
  let silent : Bool := energy < c.silFloor
  { tr with
    novEnergy := u32 energy
    silent := silent
    silLevel := u32 (ema (uval tr.silLevel) (if silent then 65536 else 0) c.alphaSl) }

/-- Step 2, the heavy-update gate (R272). -/
def heavyGate (c : Cfg) (f : Front) (nv : Novelty) (tr : Track) : Bool := histFull c f && nv.valid && tr.heavyCtr == 0

/-- Steps 2 and 3: the scheduler counter advances at every tick, the heavy update runs behind the gate (R272). -/
def heavyStep (c : Cfg) (f : Front) (nv : Novelty) (tr : Track) : Track :=
  let t1 := if heavyGate c f nv tr then heavyUpdate c f tr else tr
  { t1 with heavyCtr := u8 (emod (uval tr.heavyCtr + 1) c.heavyN) }

/-- Step 4, the hold counter (R286). -/
def holdStep (switched : Bool) (tr : Track) : Track :=
  { tr with hold := if switched then 0 else u16 (min (uval tr.hold + 1) 65535) }

/-- The slewed period (R289). -/
def slewPeriod (c : Cfg) (period target : Int) : Int :=
  let step := fdiv (period * c.slew) 65536
  period + clampInt (target - period) (-step) step

/-- The phase error in `[asr(P, 1) - P, asr(P, 1))` (R290). -/
def phaseError (phitarget phase period : Int) : Int :=
  let e := emod (phitarget * 65536 - phase) period
  if e ≥ asr period 1 then e - period else e

/-- The phase after the proportional correction (R290). -/
def correctPhase (c : Cfg) (phitarget phase period : Int) : Int :=
  let e := phaseError phitarget phase period
  if (e.natAbs : Int) ≤ fdiv (period * c.beatWin) 65536 then
    phase + clampInt (asr (e * c.pllGain) 16) (-c.pllMaxc) c.pllMaxc
  else phase

/-- The phase before the wrap: one tick further, and corrected if a heavy update with a peak ran (R289, R290). -/
def advancedPhase (c : Cfg) (ran : Bool) (period : Int) (tr : Track) : Int :=
  if ran && tr.havePeak then correctPhase c (uval tr.phitarget) (uval tr.phase + 65536) period
  else uval tr.phase + 65536

/-- Step 5, the PLL, and whether the phase wrapped (R289 to R291). -/
def pllStep (c : Cfg) (ran : Bool) (tr : Track) : Track × Bool :=
  if tr.periodSet then
    let p := slewPeriod c (uval tr.period) (uval tr.ptarget)
    let ph := advancedPhase c ran p tr
    ({ tr with period := u32 p, phase := u32 (emod ph p) }, decide (ph ≥ p))
  else if ran && tr.havePeak then
    ({ tr with period := tr.ptarget, phase := u32 (uval tr.phitarget * 65536), periodSet := true }, false)
  else (tr, false)

/-- The smoothed confidence after a tick (R293). -/
def nextConf (c : Cfg) (ran : Bool) (tr : Track) : Int :=
  if ran then ema (uval tr.conf) (if tr.havePeak then uval tr.selscore else 0) c.alphaConf else uval tr.conf

/-- The confidence enable after a tick, with its hysteresis (R294). -/
def nextConfOn (c : Cfg) (confOn : Bool) (conf : Int) : Bool :=
  if !confOn && conf > c.confOn then true else if confOn && conf < c.confOff then false else confOn

/-- Step 6, confidence and its hysteresis (R293, R294). -/
def confStep (c : Cfg) (ran : Bool) (tr : Track) : Track :=
  { tr with conf := u32 (nextConf c ran tr), confOn := nextConfOn c tr.confOn (nextConf c ran tr) }

/-- The tempo fields of a frame (R295 to R297). -/
structure TempoOut where
  bpm : Int
  phase : Int
  strength : Int
  confidence : Int
  silence : Int
  beat : Bool
  ready : Bool
  deriving DecidableEq, Repr

/-- `ready` (R295). -/
def tempoReady (c : Cfg) (f : Front) (tr : Track) : Bool := histFull c f && tr.havePeak && tr.periodSet

/-- `F.beat_flag` (R296). -/
def beatFlag (c : Cfg) (nv : Novelty) (ready wrap : Bool) (tr : Track) : Bool :=
  wrap && ready && !tr.silent && tr.confOn && (if nv.valid then nv.low else 0) > c.silFloor

/-- `F.bpm` when ready (R297). -/
def bpmOf (c : Cfg) (period : Int) : Int := fdiv (60 * c.fs * 4294967296) (c.n * period)

/-- `F.phase` when ready (R297). -/
def phaseOf (phase period : Int) : Int := min 65535 (fdiv (phase * 65536) period)

/-- `F.strength` when ready (R297). -/
def strengthOf (c : Cfg) (tmix : List Int) (period : Int) : Int :=
  tgAt c tmix (clampInt (rlag period) (lMin c) (lMax c)).toNat

/-- Step 7, the outputs (R295 to R297). -/
def tempoOut (c : Cfg) (f : Front) (nv : Novelty) (wrap : Bool) (tr : Track) : TempoOut :=
  let ready := tempoReady c f tr
  { bpm := if ready then bpmOf c (uval tr.period) else 0
    phase := if ready then phaseOf (uval tr.phase) (uval tr.period) else 0
    strength := if ready then strengthOf c (uvals tr.tmix) (uval tr.period) else 0
    confidence := uval tr.conf
    silence := uval tr.silLevel
    beat := beatFlag c nv ready wrap tr
    ready := ready }

/-- The tempo tracker at one tick: the seven steps of R270. -/
def trackStage (c : Cfg) (f : Front) (nv : Novelty) (tr : Track) : Track × TempoOut :=
  let t1 := silenceStep c nv tr
  let ran := heavyGate c f nv t1
  let t2 := heavyStep c f nv t1
  let t3 := holdStep (ran && t2.sel != tr.sel) t2
  let r := pllStep c ran t3
  let t5 := confStep c ran r.1
  (t5, tempoOut c f nv r.2 t5)

end Sys2Proof.Machine
end

