-- ==== Sys2Proof/Machine/Tick.lean ====
section
/-! DEFINITION. One producer tick: the stages of PROCESS_CHUNK in their order, up to the publication (R331), and
the publication with no other agent between its bus accesses (R150). -/

namespace Sys2Proof.Machine

/-- The values the stages of one tick hand on (R331, steps 2 to 9). -/
structure TickValues where
  /-- `x'`, the DC-removed chunk. -/
  chunk : List Int
  /-- `raw[k]`. -/
  raw : List Int
  /-- The post-processor after the tick. -/
  post : Post
  /-- The tempo front end after the tick. -/
  front : Front
  /-- The tempo tracker after the tick. -/
  track : Track
  /-- The tempo outputs. -/
  out : TempoOut
  deriving DecidableEq, Repr

/-- Steps 2 to 9 of R331: each stage reads what the earlier ones and the earlier ticks wrote. -/
def tickValues (c : Cfg) (s : State) (samples : List Half) : TickValues :=
  let x := removeDC c (assembleChunk c samples)
  let raw := filterbank c x
  let fr := frontStage c x s.front
  let tk := trackStage c fr.1 fr.2 s.track
  { chunk := x, raw := raw, post := postStage c s.tun raw s.post, front := fr.1, track := tk.1, out := tk.2 }

/-- The staging frame of a tick, every field written (R57, R331); its epoch is the one PUBLISH gives it (R150). -/
def tickFrame (c : Cfg) (s : State) (ts : Word) (v : TickValues) : Frame :=
  { epoch := nextEpoch s.bus.epoch
    timestamp := ts
    wave := v.chunk.map u16
    peak := u32 (peakLevel v.chunk)
    rms := u32 (rmsLevel c v.chunk)
    raw := v.raw.map u32
    smooth := v.post.smooth
    pitch := (pitchClasses c v.raw).map u32
    band := (bandSummary c (uvals v.post.smooth)).map u32
    novelty := u32 (fluxNovelty c v.raw (uvals s.rawprev))
    bpm := u32 v.out.bpm
    phase := u32 v.out.phase
    strength := u32 v.out.strength
    confidence := u32 v.out.confidence
    silence := u32 v.out.silence
    beatFlag := u8 (bit v.out.beat)
    tempoReady := u8 (bit v.out.ready)
    pad := 0 }

/-- The producer state with the values of a tick written (R331, steps 5 to 11). -/
def State.withTick (s : State) (c : Cfg) (ts : Word) (v : TickValues) : State :=
  { s with
    post := v.post
    rawprev := v.raw.map u32
    front := v.front
    track := v.track
    frame := tickFrame c s ts v
    readyLast := v.out.ready
    tick := s.tick + 1 }

/-- Steps 1 to 11 of R331 and the private part of PUBLISH: all that a tick does before its first bus access,
the guard event of a wrong-length chunk included (R170). -/
def State.runTick (c : Cfg) (s : State) (ts : Word) (samples : List Half) : State :=
  let s1 := if chunkStatus c samples = .ok then s else s.guardEvent
  s1.withTick c ts (tickValues c s samples)

/-- PUBLISH of the staging frame with no other agent between its bus accesses (R150). -/
def State.publish (s : State) : State := s.writeSequence (frameWords s.frame) s.frame.epoch

end Sys2Proof.Machine
end

