-- ==== Sys2Proof/Machine/FrameBus.lean ====
section
/-! DEFINITION. The frame-bus commands SNAPSHOT and GET_EPOCH, each with no other agent between its bus accesses
(R152, R153). Machine/Interleave.lean takes SNAPSHOT one access at a time. -/

namespace Sys2Proof.Machine

/-- Whether a sequence number says that a copy is in progress (R58, R152). -/
def seqOdd (w : Word) : Bool := w.getLsbD 0

/-- The validation that ends an attempt: `s1 = s2`, `out[0] = e` and `e ≠ 0` (R152). -/
def attemptOk (s1 s2 e : Word) (out : List Word) : Bool := s1 == s2 && out.getD 0 0 == e && e != 0

/-- One attempt with nothing written meanwhile: the words of the slot, if they validate (R152). -/
def State.attempt (c : Cfg) (s : State) : Option (List Word) :=
  if seqOdd s.bus.wseq then none
  else if attemptOk s.bus.wseq s.bus.wseq s.bus.epoch (s.bus.slot.words c) then some (s.bus.slot.words c)
  else none

/-- At most `k` attempts (R152). -/
def State.attempts (c : Cfg) (s : State) : Nat → Option (List Word)
  | 0 => none
  | k + 1 => match s.attempt c with | some out => some out | none => s.attempts c k

/-- The response of a SNAPSHOT that ends with this copy, or with none (R152). -/
def State.answerSnapshot (s : State) (out : Option (List Word)) : State :=
  match out with
  | some ws => s.respond .ok ws
  | none => s.raise .noData

/-- `SNAPSHOT` with `k` attempts, in a block of any configuration (R7, R152). -/
def snapshotWith (c : Cfg) (k : Half) (s : State) : Host.Outcome State Fault Refusal :=
  .next (s.answerSnapshot (s.attempts c k.toNat))

/-- `SNAPSHOT` with `k` attempts (R152). -/
def execSnapshot (k : Half) (s : State) : Host.Outcome State Fault Refusal := snapshotWith cfg k s

/-- `GET_EPOCH` (R153). -/
def execGetEpoch (s : State) : Host.Outcome State Fault Refusal :=
  .next (s.respond .ok [s.bus.epoch])

end Sys2Proof.Machine
end

