-- ==== Sys2Proof/Machine/Control.lean ====
section
/-! DEFINITION. NOP and the commands of the control port: PROCESS_CHUNK, SET_TUNABLE, GET_TUNABLE, GET_STATUS and
SOFT_RESET (46_commands.md). On a reader port each of these but NOP is `ILLEGAL` (R120 d, R365). -/

namespace Sys2Proof.Machine

/-- Run a command of the control port: on any other port it is answered `ILLEGAL` with no effect (R120 d, R365). -/
def State.onControl (s : State) (t : State) : Host.Outcome State Fault Refusal :=
  if s.cur.isControl then .next t else .next (s.raise .illegal)

/-- `NOP`: no effect, on every port (R343). -/
def execNop (s : State) : Host.Outcome State Fault Refusal := .next (s.raise .ok)

/-- The producer at its reset values and the bus sequence of R155 with no other agent between its accesses
(R344). -/
def State.softReset (c : Cfg) (s : State) : State := (s.resetProducer c).writeSequence (zeroWords c) 0

/-- `SOFT_RESET` in a block of any configuration (R7, R344). The port's own further command words stay on its
stream (log 8). -/
def softResetWith (c : Cfg) (s : State) : Host.Outcome State Fault Refusal := s.onControl ((s.softReset c).raise .ok)

/-- `SOFT_RESET` (R344). -/
def execSoftReset (s : State) : Host.Outcome State Fault Refusal := softResetWith cfg s

/-- `PROCESS_CHUNK` in a block of any configuration: one tick, its publication, and the response after it
(R7, R330, R331). -/
def processChunkWith (c : Cfg) (ts : Word) (samples : List Half) (s : State) : Host.Outcome State Fault Refusal :=
  s.onControl ((s.runTick c ts samples).publish.raise (chunkStatus c samples))

/-- `PROCESS_CHUNK` (R330, R331). -/
def execProcessChunk (ts : Word) (samples : List Half) (s : State) : Host.Outcome State Fault Refusal :=
  processChunkWith cfg ts samples s

/-- A tunable register written with a clamped value; a value that had to be clamped is a guard event (R340). -/
def State.writeTunable (s : State) (id : Nat) (v : Word) : State :=
  let t : State := { s with tun := s.tun.set id (clampTunable id v) }
  if clampTunable id v = v then t.raise .ok else t.guardEvent.raise .okClamped

/-- `SET_TUNABLE`; an id that is not implemented is `ILLEGAL` (R340). -/
def execSetTunable (id : Byte) (v : Word) (s : State) : Host.Outcome State Fault Refusal :=
  s.onControl (if id.toNat < tunableCount then s.writeTunable id.toNat v else s.raise .illegal)

/-- Answer a register read: its value, or `ILLEGAL` where no such register is implemented (R341, R342). -/
def State.answerRead (s : State) (value : Option Word) : State :=
  match value with
  | some v => s.respond .ok [v]
  | none => s.raise .illegal

/-- `GET_TUNABLE` (R341). -/
def execGetTunable (id : Byte) (s : State) : Host.Outcome State Fault Refusal :=
  s.onControl (s.answerRead (s.tun.get? id.toNat))

/-- `GET_STATUS` in a block of any configuration (R7, R342). -/
def getStatusWith (c : Cfg) (idx : Byte) (s : State) : Host.Outcome State Fault Refusal :=
  s.onControl (s.answerRead (s.status? c idx.toNat))

/-- `GET_STATUS` (R342). -/
def execGetStatus (idx : Byte) (s : State) : Host.Outcome State Fault Refusal := getStatusWith cfg idx s

/-! ### The commands of a block of any configuration -/

/-- Run a command in a block of any configuration; `exec` is this at the reference configuration (R7). The
commands that read no constant of the configuration are the same in each. -/
def execWith (c : Cfg) (i : Instr) (s : State) : Host.Outcome State Fault Refusal :=
  match i with
  | .nop => execNop s
  | .softReset => softResetWith c s
  | .processChunk ts samples => processChunkWith c ts samples s
  | .setTunable id v => execSetTunable id v s
  | .getTunable id => execGetTunable id s
  | .getStatus idx => getStatusWith c idx s
  | .snapshot k => snapshotWith c k s
  | .getEpoch => execGetEpoch s

end Sys2Proof.Machine
end

