-- ==== Sys2Proof/Machine/Dispatch.lean ====
section
/-! DEFINITION. One arm for each command of the opcode table. -/

namespace Sys2Proof.Machine

def exec (i : Instr) (s : State) : Host.Outcome State Fault Refusal :=
  match i with
  | .nop => Sys2Proof.Machine.execNop s
  | .softReset => Sys2Proof.Machine.execSoftReset s
  | .processChunk ts samples => Sys2Proof.Machine.execProcessChunk ts samples s
  | .setTunable id v => Sys2Proof.Machine.execSetTunable id v s
  | .getTunable id => Sys2Proof.Machine.execGetTunable id s
  | .getStatus idx => Sys2Proof.Machine.execGetStatus idx s
  | .snapshot k => Sys2Proof.Machine.execSnapshot k s
  | .getEpoch => Sys2Proof.Machine.execGetEpoch s

end Sys2Proof.Machine
end

