-- ==== Sys2Proof/Machine/Interleave.lean ====
section
/-! DEFINITION. The agents of R86 taking turns: fetching a command from a port's stream, running it whole or one
bus access at a time, and what comes from outside the block (R86 to R91, R110, R390). -/

namespace Sys2Proof.Machine

/-! ### One bus access of a command in progress -/

/-- The phase after the write of slot word `w` (R87). -/
def WritePhase.afterWord (c : Cfg) (w : Nat) : WritePhase := if w + 1 < slotWords c then .word (w + 1) else .closeSeq

/-- One bus write of a writer whose sequence writes the words `ws` and then the epoch `e`, and the phase after
it; no phase where the sequence is over (R150, R155). Nothing where the slot has no such word (R82). -/
def State.writeAccess (c : Cfg) (s : State) (ws : List Word) (e : Word) : WritePhase → Option (State × Option WritePhase)
  | .openSeq => some (s.bumpSeq, some (.word 0))
  | .word w =>
    if w < slotWords c then some (s.writeSlot w (ws.getD w 0), some (.afterWord c w)) else none
  | .closeSeq => some (s.bumpSeq, some .epoch)
  | .epoch => some (s.setEpoch e, none)

/-- The slot word a phase writes; phases that write no slot word name 0. -/
def WritePhase.slotWord : WritePhase → Nat
  | .word w => w
  | .openSeq | .closeSeq | .epoch => 0

/-- The next state of a port's writer sequence: still busy, or done and answered (R91). -/
def State.afterWrite (s : State) (p : Port) (more : Option WritePhase) (busy : WritePhase → Busy) (st : Status) :
    State :=
  match more with
  | some ph => s.setBusy p (some (busy ph))
  | none => (s.setBusy p none).respondOn p st []

/-- A SNAPSHOT attempt that failed: the next attempt, or `NO_DATA` when none is left (R152). -/
def State.failAttempt (s : State) (p : Port) (left : Nat) : State :=
  if left ≤ 1 then (s.setBusy p none).respondOn p .noData []
  else s.setBusy p (some (.snap (left - 1) .seq1 0 []))

/-- One bus read of a SNAPSHOT (R88, R152). -/
def State.readAccess (c : Cfg) (s : State) (p : Port) (left : Nat) (s1 : Word) (out : List Word) : ReadPhase → Option State
  | .seq1 =>
    if seqOdd s.bus.wseq then some (s.failAttempt p left)
    else some (s.setBusy p (some (.snap left (.word 0) s.bus.wseq [])))
  | .word w =>
    if w < slotWords c then
      some (s.setBusy p (some (.snap left (if w + 1 < slotWords c then .word (w + 1) else .seq2) s1
        (out ++ [s.bus.slot.readWord w]))))
    else none
  | .seq2 => some (s.setBusy p (some (.snap left (.epoch s.bus.wseq) s1 out)))
  | .epoch s2 =>
    if attemptOk s1 s2 s.bus.epoch out then some ((s.setBusy p none).respondOn p .ok out)
    else some (s.failAttempt p left)

/-- The slot word a phase reads; phases that read no slot word name 0. -/
def ReadPhase.slotWord : ReadPhase → Nat
  | .word w => w
  | .seq1 | .seq2 | .epoch _ => 0

/-- The next bus access of the command in progress on a port (R86, R150, R152, R155). -/
def State.busAccess (c : Cfg) (s : State) (p : Port) (b : Busy) : Host.Outcome State Fault Refusal :=
  match b with
  | .publish ph st =>
    match s.writeAccess c (frameWords s.frame) s.frame.epoch ph with
    | some (t, more) => .next (t.afterWrite p more (fun ph' => .publish ph' st) st)
    | none => .fault (.slotAddress ph.slotWord)
  | .clear ph =>
    match s.writeAccess c (zeroWords c) 0 ph with
    | some (t, more) => .next (t.afterWrite p more .clear .ok)
    | none => .fault (.slotAddress ph.slotWord)
  | .snap left ph s1 out =>
    match s.readAccess c p left s1 out ph with
    | some t => .next t
    | none => .fault (.slotAddress ph.slotWord)

/-! ### Starting a command -/

/-- Start a command one bus access at a time: its private work is done at once, which no other agent can observe
(R86, R331), and its bus accesses are still to come. A command with at most one bus access runs whole. -/
def State.begin (c : Cfg) (i : Instr) (s : State) : Host.Outcome State Fault Refusal :=
  match i with
  | .processChunk ts samples =>
    s.onControl ((s.runTick c ts samples).setBusy s.cur (some (.publish .openSeq (chunkStatus c samples))))
  | .softReset => s.onControl ((s.resetProducer c).setBusy s.cur (some (.clear .openSeq)))
  | .snapshot k =>
    .next (if k.toNat = 0 then s.raise .noData else s.setBusy s.cur (some (.snap k.toNat .seq1 0 [])))
  | .nop => execNop s
  | .setTunable id v => execSetTunable id v s
  | .getTunable id => execGetTunable id s
  | .getStatus idx => getStatusWith c idx s
  | .getEpoch => execGetEpoch s

/-- The state with a command taken off a port's stream, the port being the one that runs it (R91, R113). -/
def State.fetched (s : State) (p : Port) (rest : List Word) : State :=
  { s.modPort p (fun ps => { ps with cmds := rest }) with cur := p }

/-- Take the next command of an idle port and run it by `f`; an illegal one is answered and its payload is
consumed (R113, R120); a port without a whole command waits (R333; log 9). -/
def State.start (s : State) (p : Port) (ps : PortState) (f : Instr → State → Host.Outcome State Fault Refusal) :
    Host.Outcome State Fault Refusal :=
  match takeCommand ps.cmds with
  | none => .next s
  | some (w, payload, rest) =>
    match accept p.isControl w payload with
    | .ok i => f i (s.fetched p rest)
    | .error _ => .next ((s.fetched p rest).raise .illegal)

/-! ### Turns -/

/-- A turn of the agent of a port: the next bus access of its command in progress, or the start of its next
command by `f` (R86, R91). -/
def State.agentTurn (c : Cfg) (s : State) (p : Port) (f : Instr → State → Host.Outcome State Fault Refusal) :
    Host.Outcome State Fault Refusal :=
  match s.port? p with
  | none => .refused (.noSuchPort p)
  | some ps =>
    match ps.busy with
    | some b => s.busAccess c p b
    | none => s.start p ps f

/-- Words arrive on a port's command stream (R110). -/
def State.deliver (s : State) (p : Port) (ws : List Word) : Host.Outcome State Fault Refusal :=
  match s.port? p with
  | none => .refused (.noSuchPort p)
  | some _ => .next (s.modPort p fun ps => { ps with cmds := ps.cmds ++ ws })

/-- Words arrive through a transport that serialises them into bytes; a partial word is refused (R83, R84). -/
def State.deliverBytes (s : State) (p : Port) (bs : List Byte) : Host.Outcome State Fault Refusal :=
  match wordsOfBytes bs with
  | some ws => s.deliver p ws
  | none => .refused .partialWord

/-- One move in a block of configuration `c`, whose commands run whole by `f` (R86, R390). -/
def State.takeTurn (c : Cfg) (f : Instr → State → Host.Outcome State Fault Refusal) (s : State) (t : Turn) :
    Host.Outcome State Fault Refusal :=
  match t with
  | .run p => s.agentTurn c p f
  | .access p => s.agentTurn c p (State.begin c)
  | .deliver p ws => s.deliver p ws
  | .deliverBytes p bs => s.deliverBytes p bs
  | .hardReset => .next (s.hardReset c)

/-- Whether a port has something to do. -/
def PortState.ready (ps : PortState) : Bool := ps.busy.isSome || (takeCommand ps.cmds).isSome

/-- The first reader port with something to do, the list starting at port number `r`. -/
def firstReady : Nat → List PortState → Option Port
  | _, [] => none
  | r, ps :: rest => if ps.ready then some (.reader r) else firstReady (r + 1) rest

/-- The port that moves when the environment has chosen no move: the first with something to do, P before the
readers (log 1). -/
def State.nextPort (s : State) : Option Port :=
  if s.ctl.ready then some .control else firstReady 1 s.readers

/-- One move of the machine: the environment's next choice, or, where it has chosen none, a whole command of
the first port that has one (log 1). An idle block holds its state (R333). -/
def State.advance (c : Cfg) (f : Instr → State → Host.Outcome State Fault Refusal) (s : State) :
    Host.Outcome State Fault Refusal :=
  match s.turns with
  | t :: rest => { s with turns := rest }.takeTurn c f t
  | [] =>
    match s.nextPort with
    | some p => s.takeTurn c f (.run p)
    | none => .next s

/-- One step of a block of configuration `c`, whose commands run whole by `f`: one move of one agent (R86); a
configuration that breaks R8 has no meaning and is refused (R8, I-5). -/
def State.stepBy (c : Cfg) (f : Instr → State → Host.Outcome State Fault Refusal) (s : State) :
    Host.Outcome State Fault Refusal :=
  if cfgValid c then s.advance c f else .refused .invalidConfig

/-- `s` with the words of a command of the opcode table placed where the next step fetches: first on the
stream of an idle control port, whose turn is next (log 13). -/
def State.placeCommand (s : State) (nbits w : Nat) : State :=
  { s with
    ctl := { s.ctl with cmds := tableWords nbits w ++ s.ctl.cmds, busy := none }
    turns := .run .control :: s.turns }

end Sys2Proof.Machine
end

