-- ==== Sys2Proof/Machine/Step.lean ====
section
/-! DEFINITION. One step of the machine. -/

namespace Sys2Proof.Machine

/-- One step of a block of any configuration (R7, R8, R86). -/
def stepWith (c : Cfg) (s : State) : Host.Outcome State Fault Refusal := s.stepBy c (execWith c)

/-- One step of the block of the reference configuration: one move of one agent (R86). -/
def step (s : State) : Host.Outcome State Fault Refusal := s.stepBy cfg exec

/-- The machine of a configuration with `k` reader ports (R7, R365); the host's `core` is this at the reference
configuration. The spec gives `K_READERS` for values of at least 1 only; `k = 0` is not refused (DESIGN CHOICE,
log 4). -/
def coreWith (c : Cfg) (k : Nat) : Host.Core :=
  { State := State, Fault := Fault, Refusal := Refusal, step := stepWith c, reset := State.resetWith c k }

/-- `s` with the instruction whose bits are `w` stored where `step` fetches its next one (log 13). -/
def State.withFetchWord (s : State) (nbits w : Nat) : State := s.placeCommand nbits w

end Sys2Proof.Machine
end

