-- ==== Sys2Proof/Machine/Assembler.lean ====
section
/-! DEFINITION. The assembly syntax and its pseudo-instructions (R124, R125): one command a line, from text to
the words it encodes. It is notation for command words and no part of the block. -/

namespace Sys2Proof.Machine

/-- The value of a decimal or hexadecimal digit. -/
def digitValue (c : Char) : Option Nat :=
  if '0'.toNat ≤ c.toNat ∧ c.toNat ≤ '9'.toNat then some (c.toNat - '0'.toNat)
  else if 'a'.toNat ≤ c.toNat ∧ c.toNat ≤ 'f'.toNat then some (c.toNat - 'a'.toNat + 10)
  else if 'A'.toNat ≤ c.toNat ∧ c.toNat ≤ 'F'.toNat then some (c.toNat - 'A'.toNat + 10)
  else none

/-- A digit string in a base, after the digits whose value is `acc`. -/
def digitsValue (base : Nat) : List Char → Nat → Option Nat
  | [], acc => some acc
  | c :: rest, acc =>
    match digitValue c with
    | some d => if d < base then digitsValue base rest (acc * base + d) else none
    | none => none

/-- A number in decimal or in `0x` hex (R124). -/
def parseNat : List Char → Option Nat
  | [] => none
  | ['0', 'x'] => none
  | '0' :: 'x' :: rest => digitsValue 16 rest 0
  | cs => digitsValue 10 cs 0

/-- A number that may carry a minus sign, as a sample does (R124, R126). -/
def parseInt : List Char → Option Int
  | '-' :: rest => (parseNat rest).map fun v => -(v : Int)
  | cs => (parseNat cs).map fun v => (v : Int)

/-- Whether a character separates words. -/
def isBlank (c : Char) : Bool := c == ' ' || c == '\t'

/-- A text without the blanks around it. -/
def trimBlanks (cs : List Char) : List Char := ((cs.dropWhile isBlank).reverse.dropWhile isBlank).reverse

/-- The texts between commas, each without the blanks around it (R124). -/
def splitCommas : List Char → List Char → List (List Char)
  | [], acc => [trimBlanks acc.reverse]
  | ',' :: rest, acc => trimBlanks acc.reverse :: splitCommas rest []
  | c :: rest, acc => splitCommas rest (c :: acc)

/-- The operands of a line after its mnemonic. -/
def operandTexts (cs : List Char) : List (List Char) :=
  if trimBlanks cs = [] then [] else splitCommas cs []

/-- The names of the tunable registers, by id (R42). -/
def tunableNames : List (List Char) :=
  ["SPEC_SMOOTH_ALPHA".toList, "PP_ATTACK_ALPHA".toList, "PP_RELEASE_ALPHA".toList, "PP_KNEE".toList,
   "PP_FLOOR_ALPHA".toList]

/-- The names of the status registers, by index (R43). -/
def statusNames : List (List Char) :=
  ["TICK_COUNT".toList, "EPOCH".toList, "FLAGS".toList, "GUARD_COUNT".toList, "HOLD_TICKS".toList,
   "PERIOD".toList, "PHASE_TICKS".toList, "CONF".toList, "HIST_COUNT".toList, "WSEQ".toList]

/-- An unsigned number of at most `bits` bits. -/
def parseField (bits : Nat) (cs : List Char) : Option Nat :=
  match parseNat cs with
  | some v => if v < 2 ^ bits then some v else none
  | none => none

/-- A selector: a register's name or a number of 8 bits (R124). -/
def parseSelector (names : List (List Char)) (cs : List Char) : Option Nat :=
  match names.findIdx? (· == cs) with
  | some i => some i
  | none => parseField 8 cs

/-- A Q1.15 sample (R115). -/
def parseSample (cs : List Char) : Option Half :=
  match parseInt cs with
  | some v => if -32768 ≤ v ∧ v ≤ 32767 then some (BitVec.ofInt 16 v) else none
  | none => none

/-- Every sample of a list of operands, if each is one. -/
def parseSamples : List (List Char) → Option (List Half)
  | [] => some []
  | t :: rest =>
    match parseSample t, parseSamples rest with
    | some v, some vs => some (v :: vs)
    | _, _ => none

/-- A `PROCESS_CHUNK` of these samples, whose number `n` must be theirs. -/
def asmChunk (ts n : Nat) (samples : List Half) : Option (List Word) :=
  if samples.length = n then some (encode (.processChunk (BitVec.ofNat 32 ts) samples)) else none

/-- A command word with a selector and no immediate. -/
def asmSelect (op : Op) (sel : Nat) : Word := commandWord op.code (BitVec.ofNat 8 sel) 0

/-- The words of a mnemonic with its operands (R124, R125). A selector that is not implemented still assembles:
the block answers it `ILLEGAL` (R340). -/
def assembleLine (c : Cfg) (mnemonic : List Char) (args : List (List Char)) : Option (List Word) :=
  if mnemonic = "nop".toList ∧ args = [] then some (encode .nop)
  else if mnemonic = "softreset".toList ∧ args = [] then some (encode .softReset)
  else if mnemonic = "epoch".toList ∧ args = [] then some (encode .getEpoch)
  else if mnemonic = "snapmax".toList ∧ args = [] then some (encode (.snapshot 65535))
  else if mnemonic = "ready?".toList ∧ args = [] then some [asmSelect .getStatus 2]
  else
    match args with
    | [a] =>
      if mnemonic = "gett".toList then (parseSelector tunableNames a).map fun id => [asmSelect .getTunable id]
      else if mnemonic = "stat".toList then (parseSelector statusNames a).map fun i => [asmSelect .getStatus i]
      else if mnemonic = "snap".toList then
        (parseField 16 a).map fun k => encode (.snapshot (BitVec.ofNat 16 k))
      else if mnemonic = ".word".toList then (parseField 32 a).map fun v => [BitVec.ofNat 32 v]
      else if mnemonic = "chunkz".toList then
        (parseField 32 a).bind fun ts => asmChunk ts c.n (List.replicate c.n 0)
      else none
    | [a, b] =>
      if mnemonic = "sett".toList then
        (parseSelector tunableNames a).bind fun id =>
          (parseField 32 b).map fun v => [asmSelect .setTunable id, BitVec.ofNat 32 v]
      else if mnemonic = "chunkc".toList then
        (parseField 32 a).bind fun ts =>
          (parseSample b).bind fun v => asmChunk ts c.n (List.replicate c.n v)
      else if mnemonic = "chunk".toList then
        (parseField 32 a).bind fun ts => (parseField 16 b).bind fun n => asmChunk ts n []
      else none
    | a :: b :: samples =>
      if mnemonic = "chunk".toList then
        (parseField 32 a).bind fun ts =>
          (parseField 16 b).bind fun n => (parseSamples samples).bind fun vs => asmChunk ts n vs
      else none
    | [] => none

/-- The words one line of assembly for a block of any configuration encodes, if it is a line of the syntax
(R7, R124). -/
def assembleWith (c : Cfg) (line : List Char) : Option (List Word) :=
  let cs := trimBlanks line
  assembleLine c (cs.takeWhile fun x => !isBlank x) (operandTexts (cs.dropWhile fun x => !isBlank x))

/-- The words of a line for the reference configuration (R124). -/
def assemble (line : List Char) : Option (List Word) := assembleWith cfg line

end Sys2Proof.Machine
end

