-- ==== Sys2Proof/Safety.lean ====
section
/-! DEFINITION. The words claims use: what stays the same, what a response is, the invariants of the stored state
(10_state.md, R95, R287), the order of the bus (R87, R150, R155) and one attempt of a SNAPSHOT (R154). -/

namespace Sys2Proof.Machine

/-! ### Frames -/

/-- Every producer state element is the same in both states (R40, R42 to R57). -/
def sameProducer (s t : State) : Prop :=
  t.tun = s.tun ∧ t.tick = s.tick ∧ t.guard = s.guard ∧ t.readyLast = s.readyLast ∧ t.post = s.post
    ∧ t.rawprev = s.rawprev ∧ t.front = s.front ∧ t.track = s.track ∧ t.frame = s.frame

/-- Every byte of the slot, the epoch and the write sequence are the same in both states (R58). -/
def sameBus (s t : State) : Prop :=
  (∀ a, t.bus.slot.read a = s.bus.slot.read a) ∧ t.bus.epoch = s.bus.epoch ∧ t.bus.wseq = s.bus.wseq

/-- The port of the command being run has sent these response words after those it had sent; its stream and its
command in progress, every other port, and the model's bookkeeping are as they were. -/
def answered (s t : State) (ws : List Word) : Prop :=
  t.port? s.cur = (s.port? s.cur).map (fun ps => { ps with resp := ps.resp ++ ws })
    ∧ (∀ q, q ≠ s.cur → t.port? q = s.port? q) ∧ t.cur = s.cur ∧ t.turns = s.turns

/-- The command changed nothing but its port's response (R363). -/
def onlyAnswered (s t : State) (ws : List Word) : Prop := answered s t ws ∧ sameProducer s t ∧ sameBus s t

/-- Every producer state element holds its reset value (R391). -/
def producerAtReset (s : State) : Prop :=
  s.tun = { specSmooth := 32768, ppAttack := 32768, ppRelease := 3277, ppKnee := 16384, ppFloor := 131 }
    ∧ s.tick = 0 ∧ s.guard = 0 ∧ s.readyLast = false
    ∧ s.post = { floor := List.replicate 64 0, smooth := List.replicate 64 0 } ∧ s.rawprev = List.replicate 64 0
    ∧ s.front = { tbuf := List.replicate 256 0, tfill := 0, mprev := List.replicate 127 0, havePrev := false,
                  med := [[], [], [], []], hmix := [], hlow := [], hmh := [] }
    ∧ s.track = { tmix := List.replicate 52 0, tmh := List.replicate 52 0, sel := 1, hold := 0, havePeak := false,
                  ptarget := 0, phitarget := 0, selscore := 0, prevphi := [0, 0, 0, 0],
                  prevphiV := [false, false, false, false], heavyCtr := 0, period := 0, phase := 0,
                  periodSet := false, conf := 0, confOn := false, novEnergy := 0, silent := true, silLevel := 65536 }
    ∧ frameWords s.frame = List.replicate 219 0

/-! ### Invariants of the stored state -/

/-- A register value in its range. -/
def inRange (w : Word) (lo hi : Nat) : Prop := lo ≤ w.toNat ∧ w.toNat ≤ hi

/-- Every tunable register holds a value of its legal range (R42). -/
def tunablesLegal (t : Tunables) : Prop :=
  inRange t.specSmooth 1 65536 ∧ inRange t.ppAttack 1 65536 ∧ inRange t.ppRelease 1 65536
    ∧ inRange t.ppKnee 256 262144 ∧ inRange t.ppFloor 1 65536

/-- An array of so many words, none above the limit. -/
def arrayWithin (l : List Word) (len top : Nat) : Prop := l.length = len ∧ ∀ v ∈ l, v.toNat ≤ top

/-- The post-processor and flux arrays have 64 entries in [0, 65535] (R47, R48). -/
def spectralInRange (s : State) : Prop :=
  arrayWithin s.post.floor 64 65535 ∧ arrayWithin s.post.smooth 64 65535 ∧ arrayWithin s.rawprev 64 65535

/-- The tempo front end's arrays and rings have their lengths: 256 samples, 127 magnitudes, four median rings of
at most 8, three history rings of one length of at most 512; the fill is 0, 128 or 256 (R49, R50, R51). -/
def frontShaped (f : Front) : Prop :=
  f.tbuf.length = 256 ∧ f.mprev.length = 127 ∧ f.med.length = 4 ∧ (∀ r ∈ f.med, r.length ≤ 8)
    ∧ f.hmix.length ≤ 512 ∧ f.hlow.length = f.hmix.length ∧ f.hmh.length = f.hmix.length
    ∧ (f.tfill = 0 ∨ f.tfill = 128 ∨ f.tfill = 256)

/-- Tempograms of 52 lags in [0, 65536], and the selected score, the confidence and the silence level in
[0, 65536] (R52, R53, R55). -/
def trackInRange (t : Track) : Prop :=
  arrayWithin t.tmix 52 65536 ∧ arrayWithin t.tmh 52 65536 ∧ t.selscore.toNat ≤ 65536
    ∧ t.conf.toNat ≤ 65536 ∧ t.silLevel.toNat ≤ 65536

/-- The target period is within the lag range once a peak or a lock has been found, and so is the period once it
is locked, the phase being below it (R54, R287). -/
def periodBounded (t : Track) : Prop :=
  (t.havePeak = true ∨ t.periodSet = true → inRange t.ptarget (42 * 65536) (93 * 65536))
    ∧ (t.periodSet = true → inRange t.period (42 * 65536) (93 * 65536) ∧ t.phase.toNat < t.period.toNat)

/-- The scheduler counter in [0, HEAVY_N), four lanes' grid offsets with their validity (R53), and the target offset,
once a peak or a lock has been found, below the target period rounded to a tick (R280, R291). -/
def laneStateOk (t : Track) : Prop :=
  t.heavyCtr.toNat < cfg.heavyN ∧ t.prevphi.length = 4 ∧ t.prevphiV.length = 4
    ∧ (t.havePeak = true ∨ t.periodSet = true → t.phitarget.toNat < (t.ptarget.toNat + 32768) / 65536)

/-- The ranges of the fields of a published frame (R81, R95). -/
def frameInRange (f : Frame) : Prop :=
  f.epoch ≠ 0 ∧ f.peak.toNat ≤ 65536 ∧ f.rms.toNat ≤ 65536 ∧ f.wave.length = 128
    ∧ arrayWithin f.raw 64 65535 ∧ arrayWithin f.smooth 64 65535 ∧ arrayWithin f.pitch 12 65536
    ∧ arrayWithin f.band 4 65536 ∧ f.novelty.toNat ≤ 65536 ∧ f.phase.toNat ≤ 65535
    ∧ f.strength.toNat ≤ 65536 ∧ f.confidence.toNat ≤ 65536 ∧ f.silence.toNat ≤ 65536
    ∧ (f.beatFlag = 0 ∨ f.beatFlag = 1) ∧ (f.tempoReady = 0 ∨ f.tempoReady = 1) ∧ f.pad = 0
    ∧ (f.tempoReady = 0 → f.bpm = 0 ∧ f.phase = 0 ∧ f.strength = 0)
    ∧ (f.beatFlag = 1 → f.tempoReady = 1)

/-! ### The order of the bus -/

/-- A command in progress that only reads the bus. -/
def Busy.reads : Busy → Bool
  | .snap _ _ _ _ => true
  | .publish _ _ | .clear _ => false

/-- No reader port is running a command that writes the bus (R90, R365). -/
def readersOnlyRead (s : State) : Prop := ∀ ps ∈ s.readers, ∀ b, ps.busy = some b → b.reads = true

/-- The first `n` words of the slot are these. -/
def slotHolds (s : State) (ws : List Word) (n : Nat) : Prop := ∀ w < n, s.bus.slot.readWord w = ws.getD w 0

/-- How far a writer's sequence of the words `ws` has got, as the bus shows it: before its first write word 0 of the slot
still is `S.epoch`, `S.wseq` is odd exactly from its first write to its second, and the words before the next one are
written (R87, R150, R155). -/
def writerAt (s : State) (ws : List Word) : WritePhase → Prop
  | .openSeq => seqOdd s.bus.wseq = false ∧ s.bus.slot.readWord 0 = s.bus.epoch
  | .word w => seqOdd s.bus.wseq = true ∧ w < 219 ∧ slotHolds s ws w
  | .closeSeq => seqOdd s.bus.wseq = true ∧ slotHolds s ws 219
  | .epoch => seqOdd s.bus.wseq = false ∧ slotHolds s ws 219

/-- Nothing has been published, or the slot holds the staging frame of the last publication, whose epoch is
`S.epoch`. -/
def slotPublished (s : State) : Prop :=
  (s.bus.epoch = 0 ∧ slotHolds s [] 219)
    ∨ (s.bus.epoch ≠ 0 ∧ s.frame.epoch = s.bus.epoch ∧ slotHolds s (frameWords s.frame) 219)

/-- The bus agrees with what the producer is doing: a publication or a soft reset as far as it has got, or, when
neither is running, a slot that holds one whole publication, or none (R87, R150, R154, R155). -/
def busConsistent (s : State) : Prop :=
  s.bus.slot.wf = true ∧ readersOnlyRead s ∧ (frameWords s.frame).length = 219
    ∧ match s.ctl.busy with
      | some (.publish ph _) => writerAt s (frameWords s.frame) ph ∧ s.frame.epoch = nextEpoch s.bus.epoch
      | some (.clear ph) => writerAt s [] ph
      | some (.snap _ _ _ _) => seqOdd s.bus.wseq = false ∧ slotPublished s
      | none => seqOdd s.bus.wseq = false ∧ slotPublished s

/-! ### One attempt of a SNAPSHOT -/

/-- The port stands at the first read of the attempt that leaves `left` attempts, itself included (R152). -/
def atFirstRead (s : State) (p : Port) (left : Nat) : Prop :=
  ∃ ps s1 out, s.port? p = some ps ∧ ps.busy = some (.snap left .seq1 s1 out)

/-- The port is past the first read of the attempt that leaves `left` attempts (R152). -/
def inCopy (s : State) (p : Port) (left : Nat) : Prop :=
  ∃ ps ph s1 out, s.port? p = some ps ∧ ps.busy = some (.snap left ph s1 out) ∧ ph ≠ .seq1

/-- `n` moves of the machine, by whatever agents, from the first read of an attempt to a state that is still in
that attempt (R86, R154). -/
inductive AttemptRun (p : Port) (left : Nat) : Nat → State → State → Prop where
  | first {s t : State} : atFirstRead s p left → step s = .next t → inCopy t p left → AttemptRun p left 1 s t
  | more {n : Nat} {s t u : State} : AttemptRun p left n s t → step t = .next u → inCopy u p left →
      AttemptRun p left (n + 1) s u

/-! ### One tick, as the stage statements see it -/

/-- A PROCESS_CHUNK run on port P takes the state `s` to the state `t` (R330). -/
def ticks (s : State) (ts : Word) (samples : List Half) (t : State) : Prop :=
  s.cur = .control ∧ exec (.processChunk ts samples) s = .next t

/-- `nov_valid` at the tick after `s`: the window is full once this chunk is in, and a previous spectrum exists
(R240 to R242). -/
def noveltyMade (s : State) : Prop := 256 ≤ s.front.tfill.toNat + 128 ∧ s.front.havePrev = true

/-- `ran` at the tick from `s` to `t`: the history is full after its push, a novelty was made and the scheduler
counter is 0 (R270, R272). -/
def heavyRan (s t : State) : Prop := t.front.hmix.length = 512 ∧ noveltyMade s ∧ s.track.heavyCtr = 0

/-- The exponential-smoothing step on values that are not negative (R13). -/
def emaNat (s x a : Nat) : Nat :=
  if s ≤ x then s + ((x - s) * a + 65535) / 65536 else s - ((s - x) * a + 65535) / 65536

/-- `r` is the integer square root of `v` (R12). -/
def isRoot (r : Nat) (v : Int) : Prop := (r : Int) * r ≤ v ∧ v < (r + 1) * (r + 1)

/-- Entry `i` of an array of words as a number. -/
def natAt (l : List Word) (i : Nat) : Nat := (l.getD i 0).toNat

/-- Sample `i` of a chunk or window as a number. -/
def sampleAt (l : List Half) (i : Nat) : Int := (l.getD i 0).toInt

/-- The sum of `f i` for `i` in `[0, n)`. -/
def sumTo (n : Nat) (f : Nat → Int) : Int := ((List.range n).map f).sum

/-- A lag of `[42, 93]` is a peak of the tempogram whose entry for lag `l` is `v l` (R274). -/
def peakOf (v : Nat → Nat) (l : Nat) : Prop :=
  42 ≤ l ∧ l ≤ 93 ∧ 0 < v l ∧ (l = 42 ∨ v (l - 1) ≤ v l) ∧ (l = 93 ∨ v (l + 1) ≤ v l)

/-- The phase error of R290 for the phase `ph` before the correction and the period `p`. -/
def phaseErr (phitarget ph p : Int) : Int :=
  let e := (phitarget * 65536 - ph) % p
  if p / 2 ≤ e then e - p else e

/-- `ph` is the phase after the advance and the correction of the tick from `s` to `t`, before the wrap; the
correction is made at a heavy update with a peak, inside the beat window (R289, R290). -/
def phaseBeforeWrap (s t : State) (ph : Int) : Prop :=
  let ph0 : Int := s.track.phase.toNat + 65536
  let p : Int := t.track.period.toNat
  let e := phaseErr t.track.phitarget.toNat ph0 p
  let corrects := heavyRan s t ∧ t.track.havePeak = true ∧ (e.natAbs : Int) ≤ p * 16384 / 65536
  (corrects → ph = ph0 + max (-32768) (min 32768 (e * 8192 / 65536))) ∧ (¬ corrects → ph = ph0)

/-- The phase wrapped at the tick from `s` to `t` (R291). -/
def wrapped (s t : State) : Prop :=
  s.track.periodSet = true ∧ ∃ ph, phaseBeforeWrap s t ph ∧ (t.track.period.toNat : Int) ≤ ph

/-- What the tempo stages have made ready at the end of a tick (R295). -/
def readyAt (t : State) : Prop :=
  t.front.hmix.length = 512 ∧ t.track.havePeak = true ∧ t.track.periodSet = true

/-! ### The whole invariant -/

/-- Whenever the slot shows a publication that SNAPSHOT would accept, its frame is in range (R95). -/
def slotFrameOk (s : State) : Prop :=
  attemptOk s.bus.wseq s.bus.wseq s.bus.epoch (s.bus.slot.words cfg) = true → seqOdd s.bus.wseq = false →
    frameInRange (decodeFrame cfg (s.bus.slot.words cfg))

/-- While port P publishes, the staging frame is in range (R57, R95). -/
def stagedFrameOk (s : State) : Prop :=
  ∀ ph st, s.ctl.busy = some (.publish ph st) → frameInRange s.frame

/-- Every range and every agreement the spec states of the stored state (R42, R47 to R55, R87, R95, R287, R291). -/
def stateLegal (s : State) : Prop :=
  tunablesLegal s.tun ∧ spectralInRange s ∧ frontShaped s.front ∧ trackInRange s.track ∧ periodBounded s.track
    ∧ laneStateOk s.track ∧ busConsistent s ∧ slotFrameOk s ∧ stagedFrameOk s

/-- The bus accesses a SNAPSHOT can still make: 222 for each attempt left, less those of the present attempt
(R88, R152, R395). -/
def Busy.readsLeft : Busy → Nat
  | .snap left .seq1 _ _ => 222 * left
  | .snap left (.word w) _ _ => 222 * left - 1 - w
  | .snap left .seq2 _ _ => 222 * left - 220
  | .snap left (.epoch _) _ _ => 222 * left - 221
  | .publish _ _ | .clear _ => 0

end Sys2Proof.Machine
end

