-- ==== Sys2Proof/Certificates/Slice0/Obligations.lean ====
section
/-! DEFINITION. The statements about the block, from the numbered rules of the spec. -/

open Sys2Proof Sys2Proof.Machine

/-! ### Each command, its response and its effect -/

/-- NOP is the word 0, legal on every port; it answers OK and changes nothing (R343). -/
def Obligations.NopDoesNothing : Prop :=
  encode .nop = [0x00000000] ∧ (∀ control payload, accept control 0x00000000 payload = .ok .nop)
    ∧ ∀ s : State, ∃ t, exec .nop s = .next t ∧ onlyAnswered s t [0x00000000]

/-- GET_EPOCH is legal on every port with its other fields 0 and illegal otherwise; it answers the epoch, which is 0
after a reset, and changes nothing (R153). -/
def Obligations.GetEpochReads : Prop :=
  encode .getEpoch = [0x41000000] ∧ (∀ control payload, accept control 0x41000000 payload = .ok .getEpoch)
    ∧ (∀ control w payload, opcField w = 0x41 → ¬ (selField w = 0 ∧ immField w = 0) →
        accept control w payload = .error .fields)
    ∧ State.reset.bus.epoch = 0
    ∧ ∀ s : State, ∃ t, exec .getEpoch s = .next t ∧ onlyAnswered s t [0x00000001, s.bus.epoch]

/-- GET_TUNABLE answers the register its selector names, or ILLEGAL where the id is above 4, and changes nothing
(R341). -/
def Obligations.GetTunableReads : Prop :=
  ∀ id : Byte, encode (.getTunable id) = [0x21000000 ||| id.setWidth 32 <<< 16]
    ∧ ∀ s : State, s.cur = .control → ∃ t, exec (.getTunable id) s = .next t ∧
      onlyAnswered s t (match id.toNat with
        | 0 => [0x00000001, s.tun.specSmooth]
        | 1 => [0x00000001, s.tun.ppAttack]
        | 2 => [0x00000001, s.tun.ppRelease]
        | 3 => [0x00000001, s.tun.ppKnee]
        | 4 => [0x00000001, s.tun.ppFloor]
        | _ => [0x03000000])

/-- GET_STATUS answers the status register its selector names, or ILLEGAL where the index is above 9, and changes
nothing (R43, R342). The word of index 2 is the subject of `FlagsFields`. -/
def Obligations.GetStatusReads : Prop :=
  ∀ idx : Byte, encode (.getStatus idx) = [0x30000000 ||| idx.setWidth 32 <<< 16]
    ∧ ∀ s : State, s.cur = .control → ∃ t, exec (.getStatus idx) s = .next t ∧
      onlyAnswered s t (match idx.toNat with
        | 0 => [0x00000001, s.tick]
        | 1 => [0x00000001, s.bus.epoch]
        | 2 => [0x00000001, flagsWord cfg s.readyLast s.front s.track]
        | 3 => [0x00000001, s.guard]
        | 4 => [0x00000001, s.track.hold.setWidth 32]
        | 5 => [0x00000001, s.track.period]
        | 6 => [0x00000001, s.track.phase]
        | 7 => [0x00000001, s.track.conf]
        | 8 => [0x00000001, BitVec.ofNat 32 s.front.hmix.length]
        | 9 => [0x00000001, s.bus.wseq]
        | _ => [0x03000000])

/-- The fields of FLAGS, and its value after reset (R44). -/
def Obligations.FlagsFields : Prop :=
  (∀ s : State, let w := flagsWord cfg s.readyLast s.front s.track
    w.getLsbD 0 = s.readyLast ∧ w.getLsbD 1 = s.track.confOn ∧ w.getLsbD 2 = s.track.silent
      ∧ w.getLsbD 3 = decide (s.front.hmix.length = 512) ∧ w.getLsbD 4 = decide (s.track.sel = 1)
      ∧ w.getLsbD 5 = s.track.periodSet ∧ w.getLsbD 6 = s.front.havePrev ∧ w.getLsbD 7 = s.track.havePeak
      ∧ w.extractLsb' 8 2 = s.track.sel ∧ ∀ i, 10 ≤ i → w.getLsbD i = false)
    ∧ flagsWord cfg State.reset.readyLast State.reset.front State.reset.track = 0x00000114

/-- SET_TUNABLE writes the value clamped to the register's range, counts a guard event and answers OK_CLAMPED exactly
where the value had to be clamped, and changes nothing else; an id above 4 is ILLEGAL (R42, R340). -/
def Obligations.SetTunableClamps : Prop :=
  ∀ (id : Byte) (v : Word) (s : State), s.cur = .control → ∃ t, exec (.setTunable id v) s = .next t ∧
    (4 < id.toNat → onlyAnswered s t [0x03000000])
    ∧ (id.toNat ≤ 4 →
        let lo := if id.toNat = 3 then 256 else 1
        let hi := if id.toNat = 3 then 262144 else 65536
        let x := max lo (min hi v.toNat)
        (∀ j, j ≤ 4 → t.tun.get? j = if j = id.toNat then some (BitVec.ofNat 32 x) else s.tun.get? j)
          ∧ (x = v.toNat → t.guard = s.guard ∧ answered s t [0x00000000])
          ∧ (x ≠ v.toNat → t.guard.toNat = min (s.guard.toNat + 1) 0xFFFFFFFF ∧ answered s t [0x01000000])
          ∧ t.tick = s.tick ∧ t.readyLast = s.readyLast ∧ t.post = s.post ∧ t.rawprev = s.rawprev
          ∧ t.front = s.front ∧ t.track = s.track ∧ t.frame = s.frame ∧ sameBus s t)

/-- SOFT_RESET leaves every producer element at its reset value, every byte of the slot 0, the epoch 0 and the write
sequence advanced by 2, and answers OK; no other port changes (R155, R344, R391). That port P's own command stream is
kept is the model's reading of R91 and R400 against R390 (log 8). -/
def Obligations.SoftResetRestores : Prop :=
  encode .softReset = [0x01000000]
    ∧ ∀ s : State, s.cur = .control → s.bus.slot.wf = true → ∃ t, exec .softReset s = .next t ∧
      answered s t [0x00000000] ∧ producerAtReset t ∧ (∀ a, t.bus.slot.read a = 0) ∧ t.bus.epoch = 0
        ∧ t.bus.wseq = s.bus.wseq + 2

/-- PROCESS_CHUNK runs one tick and publishes it: it answers OK for 128 samples and OK_CLAMPED otherwise; the
tunables keep their values, the tick counter, the guard counter, the write sequence and the epoch advance, and the
slot holds the words of the staging frame, which carries the new epoch, the timestamp and a zero pad
(R45, R150, R330, R331, R332). -/
def Obligations.ProcessChunkPublishes : Prop :=
  ∀ (ts : Word) (samples : List Half) (s : State), s.cur = .control → s.bus.slot.wf = true →
    ∃ t, exec (.processChunk ts samples) s = .next t
      ∧ answered s t [if samples.length = 128 then 0x00000000 else 0x01000000]
      ∧ t.tun = s.tun ∧ t.tick = s.tick + 1
      ∧ t.guard.toNat = (if samples.length = 128 then s.guard.toNat else min (s.guard.toNat + 1) 0xFFFFFFFF)
      ∧ t.readyLast = decide (t.frame.tempoReady = 1)
      ∧ t.frame.timestamp = ts ∧ t.frame.pad = 0 ∧ t.frame.epoch = t.bus.epoch
      ∧ t.bus.wseq = s.bus.wseq + 2
      ∧ t.bus.epoch = (if s.bus.epoch = 0xFFFFFFFF then 1 else s.bus.epoch + 1)
      ∧ (frameWords t.frame).length = 219
      ∧ (∀ w, w < 219 → t.bus.slot.readWord w = frameWord t.frame w)
      ∧ (∀ a, 876 ≤ a → t.bus.slot.read a = s.bus.slot.read a)

/-- SNAPSHOT with nothing written between its bus reads answers the 219 words of the slot where an attempt is made, no
copy is in progress and the words carry the epoch, which is not 0; otherwise it answers NO_DATA. It changes nothing
(R117, R152). -/
def Obligations.SnapshotAnswers : Prop :=
  ∀ (k : Half) (s : State), ∃ t, exec (.snapshot k) s = .next t ∧
    (k ≠ 0 ∧ s.bus.wseq.toNat % 2 = 0 ∧ s.bus.epoch ≠ 0 ∧ s.bus.slot.readWord 0 = s.bus.epoch →
      onlyAnswered s t (0x000000DB :: (List.range 219).map s.bus.slot.readWord))
    ∧ (¬ (k ≠ 0 ∧ s.bus.wseq.toNat % 2 = 0 ∧ s.bus.epoch ≠ 0 ∧ s.bus.slot.readWord 0 = s.bus.epoch) →
      onlyAnswered s t [0x02000000])

/-- On a reader port every command but NOP, SNAPSHOT and GET_EPOCH is answered ILLEGAL and changes nothing, and a word
with another operation code is refused at admission (R120, R365). -/
def Obligations.ReaderPortRights : Prop :=
  (∀ (r : Nat) (s : State) (i : Instr), s.cur = .reader r →
    (i = .softReset ∨ (∃ ts samples, i = .processChunk ts samples) ∨ (∃ id v, i = .setTunable id v)
      ∨ (∃ id, i = .getTunable id) ∨ (∃ idx, i = .getStatus idx)) →
    ∃ t, exec i s = .next t ∧ onlyAnswered s t [0x03000000])
    ∧ ∀ w payload, opcField w ≠ 0x00 → opcField w ≠ 0x40 → opcField w ≠ 0x41 →
        accept false w payload = .error .port

/-! ### Fetching, moves and reset -/

/-- A move that runs a port whose stream holds a whole legal command is `exec` of that command, on the state with the
command taken off the stream and the port noted (R41, R91, R113). That a step with no chosen move does the same for the
first port with something to do is the model's choice (log 1). -/
def Obligations.StepRunsDecodedCommand : Prop :=
  ∀ (s : State) (p : Port) (ps : PortState) (i : Instr) (tail : List Word),
    s.port? p = some ps → ps.busy = none → decode p.isControl ps.cmds = .ok (i, tail) →
      (∀ rest, s.turns = .run p :: rest → step s = exec i (State.fetched { s with turns := rest } p tail))
      ∧ (s.turns = [] → s.nextPort = some p → step s = exec i (s.fetched p tail))

/-- A whole command that is not admitted is answered ILLEGAL: it and its payload leave the stream, and nothing else
changes (R113, R120, R360). -/
def Obligations.IllegalCommandAnswered : Prop :=
  ∀ (s : State) (p : Port) (ps : PortState) (m : Turn) (rest : List Turn) (w : Word) (payload tail : List Word)
    (why : Illegal),
    s.turns = m :: rest → (m = .run p ∨ m = .access p) → s.port? p = some ps → ps.busy = none →
    ps.cmds = w :: (payload ++ tail) → payload.length + 1 = commandLength w →
    accept p.isControl w payload = .error why →
      ∃ t, step s = .next t
        ∧ t.port? p = some { cmds := tail, resp := ps.resp ++ [0x03000000], busy := none }
        ∧ (∀ q, q ≠ p → t.port? q = s.port? q) ∧ sameProducer s t ∧ sameBus s t ∧ t.turns = rest

/-- With no move chosen, a block whose ports have no command in progress and no whole command on their streams holds its
state (R333; that a step then leaves the whole state as it was is the model's choice, log 1). -/
def Obligations.IdleBlockHoldsState : Prop :=
  ∀ s : State, s.turns = [] →
    (∀ p ps, s.port? p = some ps → ps.busy = none ∧ takeCommand ps.cmds = none) → step s = .next s

/-- A hardware reset abandons every command in progress without a response, empties every command stream, and leaves
every state element at its reset value, the write sequence included; the words already sent stay sent (R390, R391;
the last is the model's reading, log 6). -/
def Obligations.HardResetMove : Prop :=
  ∀ (s : State) (rest : List Turn), s.turns = .hardReset :: rest →
    ∃ t, step s = .next t ∧ producerAtReset t ∧ (∀ a, t.bus.slot.read a = 0) ∧ t.bus.epoch = 0 ∧ t.bus.wseq = 0
      ∧ (∀ p, t.port? p = (s.port? p).map fun ps => { cmds := [], resp := ps.resp, busy := none })
      ∧ t.turns = rest

/-- What reset leaves, and what a host can see of it at once (R391, R392). -/
def Obligations.ResetValues : Prop :=
  producerAtReset State.reset ∧ (∀ a, State.reset.bus.slot.read a = 0) ∧ State.reset.bus.epoch = 0
    ∧ State.reset.bus.wseq = 0
    ∧ (∀ p ps, State.reset.port? p = some ps → ps = { cmds := [], resp := [], busy := none })
    ∧ (∀ idx, idx < 10 → State.reset.status? cfg idx = some (if idx = 2 then 0x00000114 else 0))
    ∧ ∀ k, ∃ t, exec (.snapshot k) State.reset = .next t ∧ onlyAnswered State.reset t [0x02000000]

/-- Words arrive on a stream in order, also through a transport that serialises each into four bytes, the least
significant first; a delivery that ends within a word is refused (R83, R84, R110). -/
def Obligations.DeliveredWordsArrive : Prop :=
  (∀ ws : List Word, wordsOfBytes (ws.flatMap bytesOfWord) = some ws)
    ∧ (∀ bs : List Byte, (wordsOfBytes bs).isSome = decide (bs.length % 4 = 0))
    ∧ ∀ (s : State) (p : Port) (ps : PortState) (rest : List Turn), s.port? p = some ps →
      (∀ ws, (s.turns = .deliver p ws :: rest ∨ s.turns = .deliverBytes p (ws.flatMap bytesOfWord) :: rest) →
        ∃ t, step s = .next t ∧ t.port? p = some { ps with cmds := ps.cmds ++ ws }
          ∧ (∀ q, q ≠ p → t.port? q = s.port? q) ∧ sameProducer s t ∧ sameBus s t ∧ t.turns = rest)
      ∧ (∀ bs, s.turns = .deliverBytes p bs :: rest → bs.length % 4 ≠ 0 → step s = .refused .partialWord)

/-! ### Encoding -/

/-- Decoding the words of a well-formed command gives the command and leaves the words after it; on a reader port too,
for the three commands it may run (R111 to R119). -/
def Obligations.DecodeOfEncode : Prop :=
  ∀ (i : Instr) (ws : List Word), i.wellFormed = true →
    decode true (encode i ++ ws) = .ok (i, ws)
    ∧ ((i = .nop ∨ (∃ k, i = .snapshot k) ∨ i = .getEpoch) → decode false (encode i ++ ws) = .ok (i, ws))

/-- A decoded command is well formed, and its encoding is the words it was decoded from, but for the ignored half of
the last word of an odd chunk (R111 to R119). -/
def Obligations.EncodeOfDecode : Prop :=
  ∀ (control : Bool) (ws : List Word) (i : Instr) (tail : List Word), decode control ws = .ok (i, tail) →
    i.wellFormed = true ∧ ws.drop (encode i).length = tail ∧ (encode i).length + tail.length = ws.length
      ∧ ∀ j, j < (encode i).length →
        (encode i).getD j 0 = ws.getD j 0
          ∨ (j + 1 = (encode i).length
              ∧ (∃ ts samples, i = .processChunk ts samples ∧ samples.length % 2 = 1)
              ∧ lowHalf ((encode i).getD j 0) = lowHalf (ws.getD j 0))

/-- The length of a command from its command word alone, and the encoding examples of the spec, each word read by the
decoder and each line written by the assembler (R113, R126). -/
def Obligations.LengthsAndExamples : Prop :=
  (∀ w : Word, commandLength w =
    if w.toNat / 2 ^ 24 = 0x10 then 2 + (w.toNat % 2 ^ 16 + 1) / 2 else if w.toNat / 2 ^ 24 = 0x20 then 2 else 1)
    ∧ decode true [0x20030000, 0x00008000] = .ok (.setTunable 3 32768, [])
    ∧ decode true [0x40000003] = .ok (.snapshot 3, [])
    ∧ decode true [0x30020000] = .ok (.getStatus 2, [])
    ∧ decode true [0x10000003, 0x00000007, 0xFFFF0001, 0x00000002] = .ok (.processChunk 7 [1, -1, 2], [])
    ∧ (∀ control payload, accept control 0x00010000 payload = .error .fields)
    ∧ (∀ payload, accept false 0x10000080 payload = .error .port) ∧ commandLength 0x10000080 = 1 + 65
    ∧ assemble "sett PP_KNEE, 0x8000".toList = some [0x20030000, 0x00008000]
    ∧ assemble "snap 3".toList = some [0x40000003]
    ∧ assemble "stat FLAGS".toList = some [0x30020000]
    ∧ assemble "chunk 7, 3, 1, -1, 2".toList = some [0x10000003, 0x00000007, 0xFFFF0001, 0x00000002]

/-- The samples of a PROCESS_CHUNK payload: the timestamp is its first word, sample `i` the low or high half of the
word that holds it, and nothing of the stream after the payload is read (R113, R115). -/
def Obligations.PayloadSamples : Prop :=
  ∀ (n : Half) (ts : Word) (ws tail : List Word), ws.length = (n.toNat + 1) / 2 →
    ∃ samples, decode true ((0x10000000 ||| n.setWidth 32) :: ts :: (ws ++ tail)) = .ok (.processChunk ts samples, tail)
      ∧ samples.length = n.toNat
      ∧ ∀ i, i < n.toNat → samples.getD i 0 =
          if i % 2 = 0 then (ws.getD (i / 2) 0).extractLsb' 0 16 else (ws.getD (i / 2) 0).extractLsb' 16 16

/-- A command word is admitted exactly where a row of the opcode table matches it, its selector names an implemented
register, and the port may run it (R112, R120, R123, R365). -/
def Obligations.AdmissionMatchesTable : Prop :=
  ∀ (control : Bool) (w : Word) (payload : List Word),
    (∃ i, accept control w payload = .ok i) ↔
      ∃ row ∈ opcodeTable, w &&& row.mask = row.matchBits
        ∧ (row.op = .setTunable ∨ row.op = .getTunable → (selField w).toNat ≤ 4)
        ∧ (row.op = .getStatus → (selField w).toNat ≤ 9)
        ∧ (control = false → row.op = .nop ∨ row.op = .snapshot ∨ row.op = .getEpoch)

/-- The layout of the frame's words, and its inverse (R81, R82, R83). -/
def Obligations.FrameLayout : Prop :=
  ∀ f : Frame, f.wave.length = 128 → f.raw.length = 64 → f.smooth.length = 64 → f.pitch.length = 12 →
    f.band.length = 4 →
      (frameWords f).length = 219 ∧ decodeFrame cfg (frameWords f) = f
        ∧ frameWord f 0 = f.epoch ∧ frameWord f 1 = f.timestamp
        ∧ (∀ i, i < 64 → frameWord f (2 + i) = f.wave.getD (2 * i + 1) 0 ++ f.wave.getD (2 * i) 0)
        ∧ frameWord f 66 = f.peak ∧ frameWord f 67 = f.rms
        ∧ (∀ k, k < 64 → frameWord f (68 + k) = f.raw.getD k 0)
        ∧ (∀ k, k < 64 → frameWord f (132 + k) = f.smooth.getD k 0)
        ∧ (∀ c, c < 12 → frameWord f (196 + c) = f.pitch.getD c 0)
        ∧ (∀ b, b < 4 → frameWord f (208 + b) = f.band.getD b 0)
        ∧ frameWord f 212 = f.novelty ∧ frameWord f 213 = f.bpm ∧ frameWord f 214 = f.phase
        ∧ frameWord f 215 = f.strength ∧ frameWord f 216 = f.confidence ∧ frameWord f 217 = f.silence
        ∧ (frameWord f 218).extractLsb' 0 8 = f.beatFlag ∧ (frameWord f 218).extractLsb' 8 8 = f.tempoReady
        ∧ (frameWord f 218).extractLsb' 16 16 = f.pad

/-! ### The stages of a tick: filterbank, post-processor, summaries -/

/-- Chunk assembly and DC removal: a short chunk is filled with zeros, a long one cut, either is a guard event, and the
published waveform is the chunk less its mean rounded down, saturated (R170, R171). -/
def Obligations.ChunkAndWave : Prop :=
  ∀ s ts samples t, ticks s ts samples t →
    let x := fun i => if i < samples.length then sampleAt samples i else 0
    let mean := sumTo 128 x / 128
    t.frame.wave.length = 128
      ∧ (∀ i, i < 128 → sampleAt t.frame.wave i = max (-32768) (min 32767 (x i - mean)))
      ∧ (samples.length = 128 → t.guard = s.guard ∧ answered s t [0x00000000])
      ∧ (samples.length ≠ 128 →
          t.guard.toNat = min (s.guard.toNat + 1) 0xFFFFFFFF ∧ answered s t [0x01000000])

/-- The peak and RMS levels of the published waveform, and their bounds (R172). -/
def Obligations.Levels : Prop :=
  ∀ s ts samples t, ticks s ts samples t →
    (∀ i, i < 128 → 2 * (sampleAt t.frame.wave i).natAbs ≤ t.frame.peak.toNat)
      ∧ (∃ i, i < 128 ∧ t.frame.peak.toNat = 2 * (sampleAt t.frame.wave i).natAbs)
      ∧ (∃ r, isRoot r (sumTo 128 (fun i => sampleAt t.frame.wave i * sampleAt t.frame.wave i) / 128)
          ∧ t.frame.rms.toNat = 2 * r)
      ∧ t.frame.peak.toNat ≤ 65536
      ∧ (t.frame.peak.toNat = 65536 ↔ ∃ i, i < 128 ∧ sampleAt t.frame.wave i = -32768)
      ∧ t.frame.rms.toNat ≤ 65534

/-- The raw magnitude of each bin, from the windowed waveform: a recurrence that starts at 0, saturates at 32 bits and
rounds down, its last two values, and the normalized magnitude (R177 to R180). -/
def Obligations.ResonatorBank : Prop :=
  ∀ s ts samples t, ticks s ts samples t → t.frame.raw.length = 64 ∧ ∀ k, k < 64 →
    ∃ a : Nat → Int, a 0 = 0 ∧ a 1 = 0
      ∧ (∀ n, n < 128 → a (n + 2) = max (-2147483648) (min 2147483647
          (sampleAt t.frame.wave n * cfg.w128.getD n 0 / 32768 + cfg.coef.getD k 0 * a (n + 1) / 16384 - a n)))
      ∧ let re := a 129 * 32768 - a 128 * cfg.coef.getD k 0
        let im := a 128 * cfg.sink.getD k 0
        ∃ r, isRoot r (re * re + im * im) ∧ natAt t.frame.raw k = min (4 * r / 2097045) 65535

/-- A chunk whose 128 samples are equal gives a zero waveform, zero levels, zero raw magnitudes, zero pitch classes and
zero flux (R171, R180, R221, R224). -/
def Obligations.ConstantChunkIsSilent : Prop :=
  ∀ s ts v t, ticks s ts (List.replicate 128 v) t →
    t.frame.wave = List.replicate 128 0 ∧ t.frame.peak = 0 ∧ t.frame.rms = 0
      ∧ t.frame.raw = List.replicate 64 0 ∧ t.frame.pitch = List.replicate 12 0 ∧ t.frame.novelty = 0

/-- The post-processor, bin by bin: loudness, floor, knee, and attack or release smoothing, each from the values before
this tick (R200, R202 to R205). -/
def Obligations.PostProcessor : Prop :=
  ∀ s ts samples t, ticks s ts samples t → tunablesLegal s.tun → spectralInRange s →
    t.post.floor.length = 64 ∧ t.post.smooth.length = 64 ∧ t.frame.smooth = t.post.smooth ∧ ∀ k, k < 64 →
      let w := min (natAt t.frame.raw k * (cfg.loud.getD k 0).toNat / 65536) 65535
      let d := w - natAt s.post.floor k
      let y := d * 65536 / (d + s.tun.ppKnee.toNat)
      let a := if natAt s.post.smooth k < y then s.tun.ppAttack.toNat else s.tun.ppRelease.toNat
      natAt t.post.floor k = emaNat (natAt s.post.floor k) w s.tun.ppFloor.toNat
        ∧ natAt t.post.smooth k = emaNat (natAt s.post.smooth k) y a

/-- In a run of ticks on constant chunks the noise floor and the smoothed output of every bin are 0 after 65535 ticks
and stay 0, whatever they were (R207). -/
def Obligations.SilentSteadyState : Prop :=
  ∀ (f : Nat → State) (ts : Nat → Word) (v : Nat → Half), tunablesLegal (f 0).tun → spectralInRange (f 0) →
    (∀ n, ticks (f n) (ts n) (List.replicate 128 (v n)) (f (n + 1))) →
      ∀ n, 65535 ≤ n → (f n).post.floor = List.replicate 64 0 ∧ (f n).post.smooth = List.replicate 64 0

/-- Pitch classes and bands are saturating sums of the raw and of the smoothed magnitudes, and the novelty is the clamped
sum of the rises of the raw magnitudes, which become the previous ones; so the same chunk again has no flux
(R221, R222, R223, R224). -/
def Obligations.Summaries : Prop :=
  ∀ s ts samples t, ticks s ts samples t →
    t.frame.pitch.length = 12 ∧ t.frame.band.length = 4 ∧ t.frame.smooth = t.post.smooth ∧ t.rawprev = t.frame.raw
      ∧ (∀ c, c < 12 → natAt t.frame.pitch c =
          min ((List.range 64).map fun k => if (k + 9) % 12 = c then natAt t.frame.raw k else 0).sum 65536)
      ∧ (∀ b, b < 4 → natAt t.frame.band b =
          min ((List.range 16).map fun j => natAt t.post.smooth (16 * b + j)).sum 65536)
      ∧ t.frame.novelty.toNat =
          min ((List.range 64).map fun k => natAt t.frame.raw k - natAt s.rawprev k).sum 65536
      ∧ ∀ ts' u, ticks t ts' samples u → u.frame.raw = t.frame.raw ∧ u.frame.novelty = 0

/-! ### The stages of a tick: tempo front end -/

/-- The window shifts in the waveform; before it is full no spectrum is kept and no ring changes; the first spectrum
makes no novelty; after it each tick pushes one value on each history ring (R240 to R242, R250). -/
def Obligations.WindowAndGate : Prop :=
  ∀ s ts samples t, ticks s ts samples t →
    t.front.tbuf = s.front.tbuf.drop 128 ++ t.frame.wave
      ∧ t.front.tfill.toNat = min (s.front.tfill.toNat + 128) 256
      ∧ (s.front.tfill.toNat + 128 < 256 → t.front.mprev = s.front.mprev ∧ t.front.havePrev = s.front.havePrev)
      ∧ (256 ≤ s.front.tfill.toNat + 128 → t.front.mprev.length = 127 ∧ t.front.havePrev = true)
      ∧ (¬ noveltyMade s → t.front.med = s.front.med ∧ t.front.hmix = s.front.hmix
          ∧ t.front.hlow = s.front.hlow ∧ t.front.hmh = s.front.hmh)
      ∧ (noveltyMade s → ∃ mix low mh, t.front.hmix = push s.front.hmix mix 512
          ∧ t.front.hlow = push s.front.hlow low 512 ∧ t.front.hmh = push s.front.hmh mh 512)

/-- The kept spectrum is the exact DFT magnitude of the windowed samples at bins 1 to 127 (R245). -/
def Obligations.SpectrumBins : Prop :=
  ∀ s ts samples t, ticks s ts samples t → frontShaped s.front → 256 ≤ s.front.tfill.toNat + 128 →
    ∀ j, 1 ≤ j → j < 128 →
      let xw := fun n => sampleAt t.front.tbuf n * cfg.wt.getD n 0 / 32768
      let re := sumTo 256 fun n => xw n * cfg.cos.getD (j * n % 256) 0
      let im := -sumTo 256 fun n => xw n * cfg.cos.getD ((j * n + 192) % 256) 0
      ∃ r, isRoot r (re * re + im * im) ∧ natAt t.front.mprev (j - 1) = 4 * r / 4194103

/-- Onset bands, median rings, band novelties and the three values pushed on the history rings; the median is the middle
of the values in order, or the mean of the two middle ones rounded down (R246 to R250). -/
def Obligations.NoveltyPushed : Prop :=
  (∀ v : List Int, v ≠ [] → ∃ srt : List Int, srt.Perm v ∧ srt.Pairwise (· ≤ ·)
    ∧ (v.length % 2 = 1 → median v = srt.getD ((v.length - 1) / 2) 0)
    ∧ (v.length % 2 = 0 → median v = (srt.getD (v.length / 2 - 1) 0 + srt.getD (v.length / 2) 0) / 2))
  ∧ ∀ s ts samples t, ticks s ts samples t → frontShaped s.front → noveltyMade s →
    let edge := fun b => [1, 4, 16, 64, 128].getD b 0
    let onset := fun b => ((List.range (edge (b + 1) - edge b)).map fun i =>
      natAt t.front.mprev (edge b + i - 1) - natAt s.front.mprev (edge b + i - 1)).sum
    let nov := fun b => max 0 ((onset b : Int) - median (uvals (t.front.med.getD b [])))
    (∀ b, b < 4 → t.front.med.getD b [] = push (s.front.med.getD b []) (BitVec.ofNat 32 (onset b)) 8)
      ∧ t.front.hmix = push s.front.hmix
          (BitVec.ofInt 32 ((32768 * nov 0 + 16384 * nov 1 + 9830 * nov 2 + 6554 * nov 3) / 65536)) 512
      ∧ t.front.hlow = push s.front.hlow (BitVec.ofInt 32 (nov 0)) 512
      ∧ t.front.hmh = push s.front.hmh (BitVec.ofInt 32 (nov 1 + nov 2 + nov 3)) 512

/-! ### The stages of a tick: tempo tracker -/

/-- The scheduler counter of the reference configuration is 0 after every tick; a tick with no heavy update leaves the
tempograms and the lane state alone; a heavy update has a peak exactly where some lag is a peak of the mix tempogram,
and where none is, the lane state keeps its values (R272, R274, R288). -/
def Obligations.HeavyScheduler : Prop :=
  ∀ s ts samples t, ticks s ts samples t →
    let lanesKept := t.track.sel = s.track.sel ∧ t.track.ptarget = s.track.ptarget
      ∧ t.track.phitarget = s.track.phitarget ∧ t.track.selscore = s.track.selscore
      ∧ t.track.prevphi = s.track.prevphi ∧ t.track.prevphiV = s.track.prevphiV
    t.track.heavyCtr = 0
      ∧ (¬ heavyRan s t → t.track.tmix = s.track.tmix ∧ t.track.tmh = s.track.tmh
          ∧ t.track.havePeak = s.track.havePeak ∧ lanesKept)
      ∧ (heavyRan s t → (t.track.havePeak = true ↔ ∃ l, peakOf (fun l => natAt t.track.tmix (l - 42)) l))
      ∧ (heavyRan s t → t.track.havePeak = false → lanesKept)

/-- A heavy update smooths each tempogram towards the normalized autocorrelation of its stream (R273). -/
def Obligations.TempogramUpdate : Prop :=
  ∀ s ts samples t, ticks s ts samples t → frontShaped s.front → heavyRan s t →
    ∀ l, 42 ≤ l → l ≤ 93 →
      let ac := fun h : List Word =>
        let e0 := ((List.range 512).map fun n => natAt h n * natAt h n).sum
        if e0 = 0 then 0
        else ((List.range (512 - l)).map fun i => natAt h (l + i) * natAt h i).sum * 65536 / e0
      natAt t.track.tmix (l - 42) = emaNat (natAt s.track.tmix (l - 42)) (ac t.front.hmix) 6554
        ∧ natAt t.track.tmh (l - 42) = emaNat (natAt s.track.tmh (l - 42)) (ac t.front.hmh) 6554

/-- The base lag is the strongest mid/high peak where that is at least nine tenths of the mix peak, else the mix peak; the
base period is the base lag with the vertex of the parabola through its three points, within half a tick of it and
within the lag range (R276, R277). -/
def Obligations.BasePeriod : Prop :=
  (∀ (tmix tmh : List Word) (l1 : Nat),
    let v := fun l => natAt tmh (l - 42)
    (∀ lh, peakOf v lh → (∀ l, peakOf v l → v l < v lh ∨ (v l = v lh ∧ lh ≤ l)) →
      baseLag cfg (uvals tmix) (uvals tmh) l1 =
        if natAt tmix (l1 - 42) * 58982 / 65536 ≤ v lh then (lh, uvals tmh) else (l1, uvals tmix))
      ∧ ((∀ l, ¬ peakOf v l) → baseLag cfg (uvals tmix) (uvals tmh) l1 = (l1, uvals tmix)))
  ∧ ∀ (lb : Nat) (tb : List Int), 42 ≤ lb → lb ≤ 93 →
    let a := tb.getD (lb - 1 - 42) 0
    let b := tb.getD (lb - 42) 0
    let c := tb.getD (lb + 1 - 42) 0
    let den := a - 2 * b + c
    (lb = 42 ∨ lb = 93 ∨ 0 ≤ den → basePeriod cfg lb tb = lb * 65536)
      ∧ (lb ≠ 42 → lb ≠ 93 → den < 0 → basePeriod cfg lb tb =
          lb * 65536 + max (-32768) (min 32768 (((a - c) * 32768).tdiv den)))
      ∧ 42 * 65536 ≤ basePeriod cfg lb tb ∧ basePeriod cfg lb tb ≤ 93 * 65536

/-- The four lanes: their periods, which are valid, and their lags; the lane of the base period is always valid. The score
of a valid lane blends its prominence over the second peak with its alignment, and its forward flag says that its
mid/high offset moved forward by 1 tick to half a lag since the last heavy update (R278, R279, R281, R282). -/
def Obligations.LaneCandidates : Prop :=
  ∀ (hmix hmh tmix : List Int) (v2 base : Int) (tr : Track) (i : Nat), i < 4 → 42 * 65536 ≤ base → base ≤ 93 * 65536 →
    let e := evalLane cfg hmix hmh tmix v2 base tr i
    let prom := max 0 (tmix.getD (e.lag - 42) 0 - v2)
    let mixed := comb cfg hmix e.period e.lag
    let moved := ((e.phiMh : Int) - (tr.prevphi.getD i 0).toNat) % e.lag
    e.period = [2 * base, base, 2 * base / 3, base / 2].getD i 0
      ∧ (e.valid = true ↔ 42 * 65536 ≤ e.period ∧ e.period ≤ 93 * 65536)
      ∧ (i = 1 → e.valid = true)
      ∧ (e.valid = true → (e.lag : Int) = (e.period + 32768) / 65536 ∧ 42 ≤ e.lag ∧ e.lag ≤ 93)
      ∧ (e.valid = true → e.score = (prom * 32768 + mixed.2 * 32768) / 65536 ∧ e.phiMix = mixed.1
          ∧ e.phiMh = (comb cfg hmh e.period e.lag).1)
      ∧ (e.valid = true → (e.fwd = true ↔ tr.prevphiV.getD i false = true ∧ 1 ≤ moved ∧ moved ≤ e.lag / 2))
      ∧ (e.valid = false → e.score = 0 ∧ e.fwd = false)

/-- The alignment of a stream with a beat grid: the offset with the most energy, the smallest on ties, and the share of
the stream's energy on it (R280). -/
def Obligations.CombAlignment : Prop :=
  ∀ (h : List Word) (p lag : Nat), h.length = 512 → 42 * 65536 ≤ p → 1 ≤ lag →
    let energy := fun phi => ((List.range 512).map fun m =>
      let pos := phi + (m * p + 32768) / 65536
      if pos ≤ 511 then natAt h (511 - pos) else 0).sum
    let total := ((List.range 512).map (natAt h)).sum
    let r := comb cfg (uvals h) p lag
    r.1 < lag ∧ (∀ phi, phi < lag → energy phi ≤ energy r.1) ∧ (∀ phi, phi < r.1 → energy phi < energy r.1)
      ∧ r.2 = (if total = 0 then 0 else energy r.1 * 65536 / total : Nat) ∧ r.2 ≤ 65536

/-- Arbitration: an invalid incumbent gives way to the best valid lane; a valid one is kept unless a lane passes it by
the margin of its direction, a faster one only with forward movement, and then the best such lane is selected, the
lowest on ties (R283, R284). -/
def Obligations.Arbitration : Prop :=
  ∀ (lanes : List Lane) (inc : Nat) (hold : Nat), inc < 4 → (∃ i, i < 4 ∧ (laneAt lanes i).valid = true) →
    let r := arbitrate cfg inc hold lanes
    let score := fun i => (laneAt lanes i).score
    let best := fun ok : Nat → Prop => r < 4 ∧ ok r ∧ ∀ j, j < 4 → ok j → score j < score r ∨ (score j = score r ∧ r ≤ j)
    let eff := min 65536 (score inc + if 125 < hold then 3277 else 0)
    let qual := fun j => (laneAt lanes j).valid = true ∧ j ≠ inc ∧
      (if (laneAt lanes inc).period ≤ (laneAt lanes j).period then eff + 9830 < score j
       else eff + 3277 < score j ∧ (laneAt lanes j).fwd = true)
    ((laneAt lanes inc).valid = false → best fun j => (laneAt lanes j).valid = true)
      ∧ ((laneAt lanes inc).valid = true → (∃ j, j < 4 ∧ qual j) → best qual)
      ∧ ((laneAt lanes inc).valid = true → (¬ ∃ j, j < 4 ∧ qual j) → r = inc)

/-- A heavy update with a peak takes the strongest mix peak, the smallest on ties, and the value of the strongest other
peak, 0 where there is none; it evaluates the four lanes on the pushed rings and the new mix tempogram at the base
period of the base lag it finds from that peak, and writes what the selection among them gives: the lane, its period,
offset and score, and each lane's mid/high offset (R275, R282, R285). -/
def Obligations.HeavyUpdateSelects : Prop :=
  ∀ s ts samples t, ticks s ts samples t → heavyRan s t → t.track.havePeak = true →
    let v := fun l => natAt t.track.tmix (l - 42)
    ∃ l1 v2 : Nat, peakOf v l1 ∧ (∀ l, peakOf v l → v l < v l1 ∨ (v l = v l1 ∧ l1 ≤ l))
      ∧ (∀ l, peakOf v l → l ≠ l1 → v l ≤ v2)
      ∧ ((∃ l, peakOf v l ∧ l ≠ l1) → ∃ l, peakOf v l ∧ l ≠ l1 ∧ v l = v2)
      ∧ ((¬ ∃ l, peakOf v l ∧ l ≠ l1) → v2 = 0) ∧
      let b := baseLag cfg (uvals t.track.tmix) (uvals t.track.tmh) l1
      let base := basePeriod cfg b.1 b.2
      let lanes := (List.range 4).map fun i =>
        evalLane cfg (uvals t.front.hmix) (uvals t.front.hmh) (uvals t.track.tmix) v2 base s.track i
      let r := arbitrate cfg s.track.sel.toNat s.track.hold.toNat lanes
      42 * 65536 ≤ base ∧ base ≤ 93 * 65536 ∧ r < 4 ∧ t.track.sel.toNat = r ∧ (laneAt lanes r).valid = true
        ∧ (t.track.ptarget.toNat : Int) = (laneAt lanes r).period
        ∧ t.track.phitarget.toNat = (laneAt lanes r).phiMix
        ∧ t.track.selscore = BitVec.ofInt 32 (laneAt lanes r).score
        ∧ ∀ i, i < 4 → t.track.prevphiV.getD i false = (laneAt lanes i).valid
          ∧ ((laneAt lanes i).valid = true → (t.track.prevphi.getD i 0).toNat = (laneAt lanes i).phiMh)
          ∧ ((laneAt lanes i).valid = false → t.track.prevphi.getD i 0 = s.track.prevphi.getD i 0)

/-- The hold counter counts the ticks since the last lane switch and saturates (R286). -/
def Obligations.HoldCounter : Prop :=
  ∀ s ts samples t, ticks s ts samples t →
    t.track.hold.toNat = if t.track.sel = s.track.sel then min (s.track.hold.toNat + 1) 65535 else 0

/-- The period: once set it moves towards its target by a bounded share of itself; the first lock takes the target
period and offset at a heavy update with a peak; without either it keeps its value (R289, R291). -/
def Obligations.PeriodSlewAndLock : Prop :=
  ∀ s ts samples t, ticks s ts samples t →
    (s.track.periodSet = true →
      let step : Int := (s.track.period.toNat * 105 / 65536 : Nat)
      t.track.periodSet = true ∧ (t.track.period.toNat : Int) =
        s.track.period.toNat + max (-step) (min step ((t.track.ptarget.toNat : Int) - s.track.period.toNat)))
      ∧ (s.track.periodSet = false → heavyRan s t ∧ t.track.havePeak = true →
          t.track.periodSet = true ∧ t.track.period = t.track.ptarget
            ∧ t.track.phase.toNat = t.track.phitarget.toNat * 65536)
      ∧ (s.track.periodSet = false → ¬ (heavyRan s t ∧ t.track.havePeak = true) →
          t.track.periodSet = false ∧ t.track.period = s.track.period ∧ t.track.phase = s.track.phase)

/-- The phase advances by one tick, is corrected towards the selected grid, and wraps modulo the period; the beat flag is
set exactly at a wrap while ready, not silent, confident, and with low-band novelty above the floor
(R289, R290, R291, R296). -/
def Obligations.PhaseAndBeat : Prop :=
  ∀ s ts samples t, ticks s ts samples t → periodBounded s.track →
    (s.track.periodSet = true → ∀ ph, phaseBeforeWrap s t ph →
      (t.track.phase.toNat : Int) = ph % t.track.period.toNat)
    ∧ (t.frame.beatFlag = 0 ∨ t.frame.beatFlag = 1)
    ∧ ∀ lw : Nat, (noveltyMade s → lw = (t.front.hlow.getLastD 0).toNat) → (¬ noveltyMade s → lw = 0) →
        (t.frame.beatFlag = 1 ↔
          wrapped s t ∧ readyAt t ∧ t.track.silent = false ∧ t.track.confOn = true ∧ 66 < lw)

/-- The confidence is smoothed at a heavy update only, and its enable has two thresholds (R293, R294). -/
def Obligations.ConfidenceHysteresis : Prop :=
  ∀ s ts samples t, ticks s ts samples t →
    (heavyRan s t → t.track.conf.toNat =
      emaNat s.track.conf.toNat (if t.track.havePeak = true then t.track.selscore.toNat else 0) 3277)
    ∧ (¬ heavyRan s t → t.track.conf = s.track.conf)
    ∧ (s.track.confOn = false → (t.track.confOn = true ↔ 22938 < t.track.conf.toNat))
    ∧ (s.track.confOn = true → (t.track.confOn = false ↔ t.track.conf.toNat < 16384))

/-- The silence tracker: the smoothed novelty energy, the silence decision and the silence level (R292). -/
def Obligations.SilenceTracker : Prop :=
  ∀ s ts samples t, ticks s ts samples t →
    (∀ nv : Nat, (noveltyMade s → nv = (t.front.hmix.getLastD 0).toNat) → (¬ noveltyMade s → nv = 0) →
      t.track.novEnergy.toNat = emaNat s.track.novEnergy.toNat nv 655)
    ∧ t.track.silent = decide (t.track.novEnergy.toNat < 66)
    ∧ t.track.silLevel.toNat =
        emaNat s.track.silLevel.toNat (if t.track.silent = true then 65536 else 0) 1311

/-- The published tempo values: zeros until ready; then the tempo, the phase and the strength at the period, the tempo
within the bounds of the search window; the confidence and the silence level always (R287, R295, R297). -/
def Obligations.TempoOutputs : Prop :=
  ∀ s ts samples t, ticks s ts samples t → periodBounded s.track →
    let p := t.track.period.toNat
    (t.frame.tempoReady = 1 ↔ readyAt t) ∧ (t.frame.tempoReady = 0 ∨ t.frame.tempoReady = 1)
      ∧ (readyAt t → t.frame.bpm.toNat = 60 * 16000 * 2 ^ 32 / (128 * p)
          ∧ 5285161 ≤ t.frame.bpm.toNat ∧ t.frame.bpm.toNat ≤ 11702857
          ∧ t.frame.phase.toNat = min 65535 (t.track.phase.toNat * 65536 / p)
          ∧ t.frame.strength.toNat = natAt t.track.tmix (max 42 (min 93 ((p + 32768) / 65536)) - 42))
      ∧ (¬ readyAt t → t.frame.bpm = 0 ∧ t.frame.phase = 0 ∧ t.frame.strength = 0)
      ∧ t.frame.confidence = t.track.conf ∧ t.frame.silence = t.track.silLevel

/-! ### Primitives and long runs -/

/-- The exponential-smoothing step rounds away from zero, moves at least 1 towards its target, never passes it, and so
reaches a constant target (R13). -/
def Obligations.SmoothingReachesTarget : Prop :=
  ∀ s x a : Int, 0 ≤ a → a ≤ 65536 →
    (∃ q : Int, ((s ≤ x ∧ ema s x a = s + q ∧ (q - 1) * 65536 < (x - s) * a ∧ (x - s) * a ≤ q * 65536)
        ∨ (x < s ∧ ema s x a = s - q ∧ (q - 1) * 65536 < (s - x) * a ∧ (s - x) * a ≤ q * 65536)))
      ∧ (1 ≤ a → (s < x → s + 1 ≤ ema s x a ∧ ema s x a ≤ x) ∧ (x < s → x ≤ ema s x a ∧ ema s x a ≤ s - 1)
          ∧ (s = x → ema s x a = x)
          ∧ ∀ n : Nat, (x - s).natAbs ≤ n → (fun u => ema u x a)^[n] s = x)

/-- In a run of ticks from epoch 0, tick `p` publishes the epoch of R151, and the write sequence has advanced by two a
tick. -/
def Obligations.EpochSequence : Prop :=
  ∀ (f : Nat → State) (ts : Nat → Word) (samples : Nat → List Half), (f 0).bus.epoch = 0 →
    (∀ n, ticks (f n) (ts n) (samples n) (f (n + 1))) →
      ∀ p, 1 ≤ p → (f p).bus.epoch.toNat = (p - 1) % (2 ^ 32 - 1) + 1
        ∧ (f p).bus.epoch ≠ 0 ∧ (f p).bus.wseq = (f 0).bus.wseq + BitVec.ofNat 32 (2 * p)

/-- The timestamp only passes through a tick into the frame, and no stage reads the tunable register 0
(R332, R42, R206). -/
def Obligations.UnreadInputs : Prop :=
  ∀ s ts samples t, ticks s ts samples t →
    (∀ ts', s.bus.slot.wf = true → ∃ t', ticks s ts' samples t' ∧ sameProducer { t with frame := t'.frame } t'
        ∧ t'.frame = { t.frame with timestamp := ts' } ∧ t'.bus.epoch = t.bus.epoch ∧ t'.bus.wseq = t.bus.wseq
        ∧ (∀ w, w < 219 → w ≠ 1 → t'.bus.slot.readWord w = t.bus.slot.readWord w)
        ∧ t'.ctl = t.ctl ∧ t'.readers = t.readers)
      ∧ ∀ v, ticks { s with tun := { s.tun with specSmooth := v } } ts samples
          { t with tun := { t.tun with specSmooth := v } }

/-! ### Invariants and the frame bus between agents -/

/-- Every step keeps the tunable registers in their legal ranges and the post-processor and flux arrays in theirs
(R42, R47, R48). -/
def Obligations.SpectralStateKept : Prop :=
  ∀ s t : State, tunablesLegal s.tun → spectralInRange s → step s = .next t →
    tunablesLegal t.tun ∧ spectralInRange t

/-- Every step keeps the lengths of the tempo window, the spectrum and the rings (R49, R50, R51). -/
def Obligations.FrontStateKept : Prop :=
  ∀ s t : State, frontShaped s.front → step s = .next t → frontShaped t.front

/-- Every step keeps the tempograms, the selected score, the confidence and the silence level in [0, 65536]
(R52, R53, R55). -/
def Obligations.TrackRangesKept : Prop :=
  ∀ s t : State, trackInRange s.track → step s = .next t → trackInRange t.track

/-- Every step keeps the target period and the period within the lag range, and the phase below the period
(R54, R287). -/
def Obligations.PeriodBoundsKept : Prop :=
  ∀ s t : State, periodBounded s.track → step s = .next t → periodBounded t.track

/-- Every step of any agent keeps the bus in agreement with the producer: the slot canonical, the write sequence odd
exactly while a copy is under way, word 0 of the slot the epoch before a writer's first write, the words written so far
those of the writer, and one whole publication or none in the slot where no writer runs (R87, R90, R150, R155). -/
def Obligations.BusConsistencyKept : Prop :=
  ∀ s t : State, busConsistent s → step s = .next t → busConsistent t

/-- Every step keeps every range and agreement of the stored state together, the scheduler counter, the lanes' grid
offsets and the frame in the slot included (R42, R47 to R55, R87, R95, R287, R291). -/
def Obligations.StateLegalKept : Prop :=
  ∀ s t : State, stateLegal s → step s = .next t → stateLegal t

/-- The state after reset keeps every range and agreement (R391). -/
def Obligations.StateLegalAtReset : Prop := stateLegal State.reset

/-- Every frame that a SNAPSHOT returns in a legal state is in range, whether it runs whole or one bus access at a time
among the other agents (R95). -/
def Obligations.SnapshotFramesInRange : Prop :=
  (∀ (s t : State) (k : Half) (ps : PortState) (out : List Word), stateLegal s → s.port? s.cur = some ps →
    exec (.snapshot k) s = .next t → t.port? s.cur = some { ps with resp := ps.resp ++ 0x000000DB :: out } →
      frameInRange (decodeFrame cfg out))
    ∧ ∀ (p : Port) (left n : Nat) (s t : State) (ps : PortState) (s1 s2 : Word) (out : List Word),
      stateLegal s → AttemptRun p left n s t → n < 2 ^ 31 → t.port? p = some ps →
      ps.busy = some (.snap left (.epoch s2) s1 out) → attemptOk s1 s2 t.bus.epoch out = true →
        frameInRange (decodeFrame cfg out)

/-- The snapshot guarantee: an attempt that is about to succeed, after fewer than 2^31 moves of any agents since its first
read, holds exactly the words the slot held at its first read, when no copy was in progress; they carry the epoch of
its last read, which is not 0 (R154). -/
def Obligations.SnapshotNeverMixes : Prop :=
  ∀ (p : Port) (left n : Nat) (s t : State) (ps : PortState) (s1 s2 : Word) (out : List Word),
    busConsistent s → AttemptRun p left n s t → n < 2 ^ 31 → t.port? p = some ps →
    ps.busy = some (.snap left (.epoch s2) s1 out) → attemptOk s1 s2 t.bus.epoch out = true →
      out = (List.range 219).map s.bus.slot.readWord ∧ s1 = s.bus.wseq ∧ seqOdd s.bus.wseq = false
        ∧ out.getD 0 0 = t.bus.epoch ∧ t.bus.epoch ≠ 0

/-- A SNAPSHOT always ends: each bus access of its port completes, and ends it or leaves a SNAPSHOT in progress with fewer
accesses to make, at most 222 for each attempt; and a move of anyone else leaves it as it stands or, a hardware reset,
abandons it (R90, R152). -/
def Obligations.SnapshotEnds : Prop :=
  ∀ (s : State) (p : Port) (ps : PortState) (m : Turn) (rest : List Turn) (left : Nat) (ph : ReadPhase) (s1 : Word)
    (out : List Word), s.turns = m :: rest → s.port? p = some ps → ps.busy = some (.snap left ph s1 out) →
    (m = .run p ∨ m = .access p → 1 ≤ left → (∀ w, ph = .word w → w < 219) →
      ∃ t ps', step s = .next t ∧ t.turns = rest ∧ t.port? p = some ps' ∧
        (ps'.busy = none ∨ ∃ left' ph' s1' out', ps'.busy = some (.snap left' ph' s1' out') ∧ 1 ≤ left'
          ∧ (∀ w, ph' = .word w → w < 219)
          ∧ (Busy.snap left' ph' s1' out').readsLeft < (Busy.snap left ph s1 out).readsLeft))
    ∧ (¬ (m = .run p ∨ m = .access p) → ∀ t, step s = .next t →
      ∃ ps', t.turns = rest ∧ t.port? p = some ps' ∧
        (ps'.busy = ps.busy ∨ m = .hardReset ∧ ps'.busy = none))

/-- Running a command one bus access at a time, with no other agent between its accesses, ends in the state that running
it whole gives: a tick and a soft reset after 222 accesses, a SNAPSHOT after some number (R41, R86, R150, R152,
R155). -/
def Obligations.OneAccessAtATime : Prop :=
  ∀ s : State, s.turns = [] →
    (s.cur = .control → s.ctl.busy = none →
      (∀ ts samples t, exec (.processChunk ts samples) s = .next t → ∃ u, State.begin cfg (.processChunk ts samples) s = .next u
        ∧ Host.Core.run Sys2Proof.core 222 { u with turns := List.replicate 222 (.access .control) } = .next t)
      ∧ ∀ t, exec .softReset s = .next t → ∃ u, State.begin cfg .softReset s = .next u
        ∧ Host.Core.run Sys2Proof.core 222 { u with turns := List.replicate 222 (.access .control) } = .next t)
    ∧ ∀ ps k t, s.port? s.cur = some ps → ps.busy = none → exec (.snapshot k) s = .next t →
        ∃ u n, State.begin cfg (.snapshot k) s = .next u
          ∧ Host.Core.run Sys2Proof.core n { u with turns := List.replicate n (.access s.cur) } = .next t

/-- A move of a reader's agent changes no producer state, no bus state and no other port, and what a move of the producer
does depends on no reader: with any other reader ports it does the same, and it leaves them alone
(R90, R333, R365). -/
def Obligations.ProducerAndReadersApart : Prop :=
  (∀ (s t : State) (r : Nat) (m : Turn) (rest : List Turn), readersOnlyRead s → s.turns = m :: rest →
    (m = .run (.reader r) ∨ m = .access (.reader r)) → step s = .next t →
      sameProducer s t ∧ sameBus s t ∧ ∀ q, q ≠ .reader r → t.port? q = s.port? q)
  ∧ ∀ (s t : State) (m : Turn) (rest : List Turn) (rs : List PortState), s.turns = m :: rest →
    (m = .run .control ∨ m = .access .control) → step s = .next t →
      t.readers = s.readers ∧ step { s with readers := rs } = .next { t with readers := rs }
end

