-- ==== Sys2Proof/Laws/State.lean ====
section
/-! SUPPORT. What each named update of the state does to each field, true by `rfl` (one lemma per field per
update), and what the updates of ports and of the bus do to what is read. -/

namespace Sys2Proof.Machine

/-! ### `bumpSeq` -/

@[simp] theorem State.bumpSeq_tun (s : State) : s.bumpSeq.tun = s.tun := rfl
@[simp] theorem State.bumpSeq_tick (s : State) : s.bumpSeq.tick = s.tick := rfl
@[simp] theorem State.bumpSeq_guard (s : State) : s.bumpSeq.guard = s.guard := rfl
@[simp] theorem State.bumpSeq_readyLast (s : State) : s.bumpSeq.readyLast = s.readyLast := rfl
@[simp] theorem State.bumpSeq_post (s : State) : s.bumpSeq.post = s.post := rfl
@[simp] theorem State.bumpSeq_rawprev (s : State) : s.bumpSeq.rawprev = s.rawprev := rfl
@[simp] theorem State.bumpSeq_front (s : State) : s.bumpSeq.front = s.front := rfl
@[simp] theorem State.bumpSeq_track (s : State) : s.bumpSeq.track = s.track := rfl
@[simp] theorem State.bumpSeq_frame (s : State) : s.bumpSeq.frame = s.frame := rfl
@[simp] theorem State.bumpSeq_ctl (s : State) : s.bumpSeq.ctl = s.ctl := rfl
@[simp] theorem State.bumpSeq_readers (s : State) : s.bumpSeq.readers = s.readers := rfl
@[simp] theorem State.bumpSeq_cur (s : State) : s.bumpSeq.cur = s.cur := rfl
@[simp] theorem State.bumpSeq_turns (s : State) : s.bumpSeq.turns = s.turns := rfl

/-! ### `writeSlot` -/

@[simp] theorem State.writeSlot_tun (s : State) (w : Nat) (v : Word) : (s.writeSlot w v).tun = s.tun := rfl
@[simp] theorem State.writeSlot_tick (s : State) (w : Nat) (v : Word) : (s.writeSlot w v).tick = s.tick := rfl
@[simp] theorem State.writeSlot_guard (s : State) (w : Nat) (v : Word) : (s.writeSlot w v).guard = s.guard := rfl
@[simp] theorem State.writeSlot_readyLast (s : State) (w : Nat) (v : Word) : (s.writeSlot w v).readyLast = s.readyLast := rfl
@[simp] theorem State.writeSlot_post (s : State) (w : Nat) (v : Word) : (s.writeSlot w v).post = s.post := rfl
@[simp] theorem State.writeSlot_rawprev (s : State) (w : Nat) (v : Word) : (s.writeSlot w v).rawprev = s.rawprev := rfl
@[simp] theorem State.writeSlot_front (s : State) (w : Nat) (v : Word) : (s.writeSlot w v).front = s.front := rfl
@[simp] theorem State.writeSlot_track (s : State) (w : Nat) (v : Word) : (s.writeSlot w v).track = s.track := rfl
@[simp] theorem State.writeSlot_frame (s : State) (w : Nat) (v : Word) : (s.writeSlot w v).frame = s.frame := rfl
@[simp] theorem State.writeSlot_ctl (s : State) (w : Nat) (v : Word) : (s.writeSlot w v).ctl = s.ctl := rfl
@[simp] theorem State.writeSlot_readers (s : State) (w : Nat) (v : Word) : (s.writeSlot w v).readers = s.readers := rfl
@[simp] theorem State.writeSlot_cur (s : State) (w : Nat) (v : Word) : (s.writeSlot w v).cur = s.cur := rfl
@[simp] theorem State.writeSlot_turns (s : State) (w : Nat) (v : Word) : (s.writeSlot w v).turns = s.turns := rfl

/-! ### `setEpoch` -/

@[simp] theorem State.setEpoch_tun (s : State) (e : Word) : (s.setEpoch e).tun = s.tun := rfl
@[simp] theorem State.setEpoch_tick (s : State) (e : Word) : (s.setEpoch e).tick = s.tick := rfl
@[simp] theorem State.setEpoch_guard (s : State) (e : Word) : (s.setEpoch e).guard = s.guard := rfl
@[simp] theorem State.setEpoch_readyLast (s : State) (e : Word) : (s.setEpoch e).readyLast = s.readyLast := rfl
@[simp] theorem State.setEpoch_post (s : State) (e : Word) : (s.setEpoch e).post = s.post := rfl
@[simp] theorem State.setEpoch_rawprev (s : State) (e : Word) : (s.setEpoch e).rawprev = s.rawprev := rfl
@[simp] theorem State.setEpoch_front (s : State) (e : Word) : (s.setEpoch e).front = s.front := rfl
@[simp] theorem State.setEpoch_track (s : State) (e : Word) : (s.setEpoch e).track = s.track := rfl
@[simp] theorem State.setEpoch_frame (s : State) (e : Word) : (s.setEpoch e).frame = s.frame := rfl
@[simp] theorem State.setEpoch_ctl (s : State) (e : Word) : (s.setEpoch e).ctl = s.ctl := rfl
@[simp] theorem State.setEpoch_readers (s : State) (e : Word) : (s.setEpoch e).readers = s.readers := rfl
@[simp] theorem State.setEpoch_cur (s : State) (e : Word) : (s.setEpoch e).cur = s.cur := rfl
@[simp] theorem State.setEpoch_turns (s : State) (e : Word) : (s.setEpoch e).turns = s.turns := rfl

/-! ### `guardEvent` -/

@[simp] theorem State.guardEvent_tun (s : State) : s.guardEvent.tun = s.tun := rfl
@[simp] theorem State.guardEvent_tick (s : State) : s.guardEvent.tick = s.tick := rfl
@[simp] theorem State.guardEvent_readyLast (s : State) : s.guardEvent.readyLast = s.readyLast := rfl
@[simp] theorem State.guardEvent_post (s : State) : s.guardEvent.post = s.post := rfl
@[simp] theorem State.guardEvent_rawprev (s : State) : s.guardEvent.rawprev = s.rawprev := rfl
@[simp] theorem State.guardEvent_front (s : State) : s.guardEvent.front = s.front := rfl
@[simp] theorem State.guardEvent_track (s : State) : s.guardEvent.track = s.track := rfl
@[simp] theorem State.guardEvent_frame (s : State) : s.guardEvent.frame = s.frame := rfl
@[simp] theorem State.guardEvent_bus (s : State) : s.guardEvent.bus = s.bus := rfl
@[simp] theorem State.guardEvent_ctl (s : State) : s.guardEvent.ctl = s.ctl := rfl
@[simp] theorem State.guardEvent_readers (s : State) : s.guardEvent.readers = s.readers := rfl
@[simp] theorem State.guardEvent_cur (s : State) : s.guardEvent.cur = s.cur := rfl
@[simp] theorem State.guardEvent_turns (s : State) : s.guardEvent.turns = s.turns := rfl

/-! ### `modPort` -/

@[simp] theorem State.modPort_tun (s : State) (p : Port) (f : PortState → PortState) : (s.modPort p f).tun = s.tun := rfl
@[simp] theorem State.modPort_tick (s : State) (p : Port) (f : PortState → PortState) : (s.modPort p f).tick = s.tick := rfl
@[simp] theorem State.modPort_guard (s : State) (p : Port) (f : PortState → PortState) : (s.modPort p f).guard = s.guard := rfl
@[simp] theorem State.modPort_readyLast (s : State) (p : Port) (f : PortState → PortState) : (s.modPort p f).readyLast = s.readyLast := rfl
@[simp] theorem State.modPort_post (s : State) (p : Port) (f : PortState → PortState) : (s.modPort p f).post = s.post := rfl
@[simp] theorem State.modPort_rawprev (s : State) (p : Port) (f : PortState → PortState) : (s.modPort p f).rawprev = s.rawprev := rfl
@[simp] theorem State.modPort_front (s : State) (p : Port) (f : PortState → PortState) : (s.modPort p f).front = s.front := rfl
@[simp] theorem State.modPort_track (s : State) (p : Port) (f : PortState → PortState) : (s.modPort p f).track = s.track := rfl
@[simp] theorem State.modPort_frame (s : State) (p : Port) (f : PortState → PortState) : (s.modPort p f).frame = s.frame := rfl
@[simp] theorem State.modPort_bus (s : State) (p : Port) (f : PortState → PortState) : (s.modPort p f).bus = s.bus := rfl
@[simp] theorem State.modPort_cur (s : State) (p : Port) (f : PortState → PortState) : (s.modPort p f).cur = s.cur := rfl
@[simp] theorem State.modPort_turns (s : State) (p : Port) (f : PortState → PortState) : (s.modPort p f).turns = s.turns := rfl

/-! ### `respondOn` -/

@[simp] theorem State.respondOn_tun (s : State) (p : Port) (st : Status) (data : List Word) : (s.respondOn p st data).tun = s.tun := rfl
@[simp] theorem State.respondOn_tick (s : State) (p : Port) (st : Status) (data : List Word) : (s.respondOn p st data).tick = s.tick := rfl
@[simp] theorem State.respondOn_guard (s : State) (p : Port) (st : Status) (data : List Word) : (s.respondOn p st data).guard = s.guard := rfl
@[simp] theorem State.respondOn_readyLast (s : State) (p : Port) (st : Status) (data : List Word) : (s.respondOn p st data).readyLast = s.readyLast := rfl
@[simp] theorem State.respondOn_post (s : State) (p : Port) (st : Status) (data : List Word) : (s.respondOn p st data).post = s.post := rfl
@[simp] theorem State.respondOn_rawprev (s : State) (p : Port) (st : Status) (data : List Word) : (s.respondOn p st data).rawprev = s.rawprev := rfl
@[simp] theorem State.respondOn_front (s : State) (p : Port) (st : Status) (data : List Word) : (s.respondOn p st data).front = s.front := rfl
@[simp] theorem State.respondOn_track (s : State) (p : Port) (st : Status) (data : List Word) : (s.respondOn p st data).track = s.track := rfl
@[simp] theorem State.respondOn_frame (s : State) (p : Port) (st : Status) (data : List Word) : (s.respondOn p st data).frame = s.frame := rfl
@[simp] theorem State.respondOn_bus (s : State) (p : Port) (st : Status) (data : List Word) : (s.respondOn p st data).bus = s.bus := rfl
@[simp] theorem State.respondOn_cur (s : State) (p : Port) (st : Status) (data : List Word) : (s.respondOn p st data).cur = s.cur := rfl
@[simp] theorem State.respondOn_turns (s : State) (p : Port) (st : Status) (data : List Word) : (s.respondOn p st data).turns = s.turns := rfl

/-! ### `respond` -/

@[simp] theorem State.respond_tun (s : State) (st : Status) (data : List Word) : (s.respond st data).tun = s.tun := rfl
@[simp] theorem State.respond_tick (s : State) (st : Status) (data : List Word) : (s.respond st data).tick = s.tick := rfl
@[simp] theorem State.respond_guard (s : State) (st : Status) (data : List Word) : (s.respond st data).guard = s.guard := rfl
@[simp] theorem State.respond_readyLast (s : State) (st : Status) (data : List Word) : (s.respond st data).readyLast = s.readyLast := rfl
@[simp] theorem State.respond_post (s : State) (st : Status) (data : List Word) : (s.respond st data).post = s.post := rfl
@[simp] theorem State.respond_rawprev (s : State) (st : Status) (data : List Word) : (s.respond st data).rawprev = s.rawprev := rfl
@[simp] theorem State.respond_front (s : State) (st : Status) (data : List Word) : (s.respond st data).front = s.front := rfl
@[simp] theorem State.respond_track (s : State) (st : Status) (data : List Word) : (s.respond st data).track = s.track := rfl
@[simp] theorem State.respond_frame (s : State) (st : Status) (data : List Word) : (s.respond st data).frame = s.frame := rfl
@[simp] theorem State.respond_bus (s : State) (st : Status) (data : List Word) : (s.respond st data).bus = s.bus := rfl
@[simp] theorem State.respond_cur (s : State) (st : Status) (data : List Word) : (s.respond st data).cur = s.cur := rfl
@[simp] theorem State.respond_turns (s : State) (st : Status) (data : List Word) : (s.respond st data).turns = s.turns := rfl

/-! ### `raise` -/

@[simp] theorem State.raise_tun (s : State) (st : Status) : (s.raise st).tun = s.tun := rfl
@[simp] theorem State.raise_tick (s : State) (st : Status) : (s.raise st).tick = s.tick := rfl
@[simp] theorem State.raise_guard (s : State) (st : Status) : (s.raise st).guard = s.guard := rfl
@[simp] theorem State.raise_readyLast (s : State) (st : Status) : (s.raise st).readyLast = s.readyLast := rfl
@[simp] theorem State.raise_post (s : State) (st : Status) : (s.raise st).post = s.post := rfl
@[simp] theorem State.raise_rawprev (s : State) (st : Status) : (s.raise st).rawprev = s.rawprev := rfl
@[simp] theorem State.raise_front (s : State) (st : Status) : (s.raise st).front = s.front := rfl
@[simp] theorem State.raise_track (s : State) (st : Status) : (s.raise st).track = s.track := rfl
@[simp] theorem State.raise_frame (s : State) (st : Status) : (s.raise st).frame = s.frame := rfl
@[simp] theorem State.raise_bus (s : State) (st : Status) : (s.raise st).bus = s.bus := rfl
@[simp] theorem State.raise_cur (s : State) (st : Status) : (s.raise st).cur = s.cur := rfl
@[simp] theorem State.raise_turns (s : State) (st : Status) : (s.raise st).turns = s.turns := rfl

/-! ### `setBusy` -/

@[simp] theorem State.setBusy_tun (s : State) (p : Port) (b : Option Busy) : (s.setBusy p b).tun = s.tun := rfl
@[simp] theorem State.setBusy_tick (s : State) (p : Port) (b : Option Busy) : (s.setBusy p b).tick = s.tick := rfl
@[simp] theorem State.setBusy_guard (s : State) (p : Port) (b : Option Busy) : (s.setBusy p b).guard = s.guard := rfl
@[simp] theorem State.setBusy_readyLast (s : State) (p : Port) (b : Option Busy) : (s.setBusy p b).readyLast = s.readyLast := rfl
@[simp] theorem State.setBusy_post (s : State) (p : Port) (b : Option Busy) : (s.setBusy p b).post = s.post := rfl
@[simp] theorem State.setBusy_rawprev (s : State) (p : Port) (b : Option Busy) : (s.setBusy p b).rawprev = s.rawprev := rfl
@[simp] theorem State.setBusy_front (s : State) (p : Port) (b : Option Busy) : (s.setBusy p b).front = s.front := rfl
@[simp] theorem State.setBusy_track (s : State) (p : Port) (b : Option Busy) : (s.setBusy p b).track = s.track := rfl
@[simp] theorem State.setBusy_frame (s : State) (p : Port) (b : Option Busy) : (s.setBusy p b).frame = s.frame := rfl
@[simp] theorem State.setBusy_bus (s : State) (p : Port) (b : Option Busy) : (s.setBusy p b).bus = s.bus := rfl
@[simp] theorem State.setBusy_cur (s : State) (p : Port) (b : Option Busy) : (s.setBusy p b).cur = s.cur := rfl
@[simp] theorem State.setBusy_turns (s : State) (p : Port) (b : Option Busy) : (s.setBusy p b).turns = s.turns := rfl

/-! ### `fetched` -/

@[simp] theorem State.fetched_tun (s : State) (p : Port) (rest : List Word) : (s.fetched p rest).tun = s.tun := rfl
@[simp] theorem State.fetched_tick (s : State) (p : Port) (rest : List Word) : (s.fetched p rest).tick = s.tick := rfl
@[simp] theorem State.fetched_guard (s : State) (p : Port) (rest : List Word) : (s.fetched p rest).guard = s.guard := rfl
@[simp] theorem State.fetched_readyLast (s : State) (p : Port) (rest : List Word) : (s.fetched p rest).readyLast = s.readyLast := rfl
@[simp] theorem State.fetched_post (s : State) (p : Port) (rest : List Word) : (s.fetched p rest).post = s.post := rfl
@[simp] theorem State.fetched_rawprev (s : State) (p : Port) (rest : List Word) : (s.fetched p rest).rawprev = s.rawprev := rfl
@[simp] theorem State.fetched_front (s : State) (p : Port) (rest : List Word) : (s.fetched p rest).front = s.front := rfl
@[simp] theorem State.fetched_track (s : State) (p : Port) (rest : List Word) : (s.fetched p rest).track = s.track := rfl
@[simp] theorem State.fetched_frame (s : State) (p : Port) (rest : List Word) : (s.fetched p rest).frame = s.frame := rfl
@[simp] theorem State.fetched_bus (s : State) (p : Port) (rest : List Word) : (s.fetched p rest).bus = s.bus := rfl
@[simp] theorem State.fetched_turns (s : State) (p : Port) (rest : List Word) : (s.fetched p rest).turns = s.turns := rfl

/-! ### `withTick` -/

@[simp] theorem State.withTick_tun (s : State) (c : Cfg) (ts : Word) (v : TickValues) : (s.withTick c ts v).tun = s.tun := rfl
@[simp] theorem State.withTick_guard (s : State) (c : Cfg) (ts : Word) (v : TickValues) : (s.withTick c ts v).guard = s.guard := rfl
@[simp] theorem State.withTick_bus (s : State) (c : Cfg) (ts : Word) (v : TickValues) : (s.withTick c ts v).bus = s.bus := rfl
@[simp] theorem State.withTick_ctl (s : State) (c : Cfg) (ts : Word) (v : TickValues) : (s.withTick c ts v).ctl = s.ctl := rfl
@[simp] theorem State.withTick_readers (s : State) (c : Cfg) (ts : Word) (v : TickValues) : (s.withTick c ts v).readers = s.readers := rfl
@[simp] theorem State.withTick_cur (s : State) (c : Cfg) (ts : Word) (v : TickValues) : (s.withTick c ts v).cur = s.cur := rfl
@[simp] theorem State.withTick_turns (s : State) (c : Cfg) (ts : Word) (v : TickValues) : (s.withTick c ts v).turns = s.turns := rfl
@[simp] theorem State.withTick_post (s : State) (c : Cfg) (ts : Word) (v : TickValues) : (s.withTick c ts v).post = v.post := rfl
@[simp] theorem State.withTick_rawprev (s : State) (c : Cfg) (ts : Word) (v : TickValues) : (s.withTick c ts v).rawprev = v.raw.map u32 := rfl
@[simp] theorem State.withTick_front (s : State) (c : Cfg) (ts : Word) (v : TickValues) : (s.withTick c ts v).front = v.front := rfl
@[simp] theorem State.withTick_track (s : State) (c : Cfg) (ts : Word) (v : TickValues) : (s.withTick c ts v).track = v.track := rfl
@[simp] theorem State.withTick_frame (s : State) (c : Cfg) (ts : Word) (v : TickValues) : (s.withTick c ts v).frame = tickFrame c s ts v := rfl
@[simp] theorem State.withTick_readyLast (s : State) (c : Cfg) (ts : Word) (v : TickValues) : (s.withTick c ts v).readyLast = v.out.ready := rfl
@[simp] theorem State.withTick_tick (s : State) (c : Cfg) (ts : Word) (v : TickValues) : (s.withTick c ts v).tick = s.tick + 1 := rfl

/-! ### `resetProducer` -/

@[simp] theorem State.resetProducer_bus (c : Cfg) (s : State) : (s.resetProducer c).bus = s.bus := rfl
@[simp] theorem State.resetProducer_ctl (c : Cfg) (s : State) : (s.resetProducer c).ctl = s.ctl := rfl
@[simp] theorem State.resetProducer_readers (c : Cfg) (s : State) : (s.resetProducer c).readers = s.readers := rfl
@[simp] theorem State.resetProducer_cur (c : Cfg) (s : State) : (s.resetProducer c).cur = s.cur := rfl
@[simp] theorem State.resetProducer_turns (c : Cfg) (s : State) : (s.resetProducer c).turns = s.turns := rfl
@[simp] theorem State.resetProducer_tun (c : Cfg) (s : State) : (s.resetProducer c).tun = Tunables.reset := rfl
@[simp] theorem State.resetProducer_tick (c : Cfg) (s : State) : (s.resetProducer c).tick = 0 := rfl
@[simp] theorem State.resetProducer_guard (c : Cfg) (s : State) : (s.resetProducer c).guard = 0 := rfl
@[simp] theorem State.resetProducer_readyLast (c : Cfg) (s : State) : (s.resetProducer c).readyLast = false := rfl
@[simp] theorem State.resetProducer_post (c : Cfg) (s : State) : (s.resetProducer c).post = Post.reset c := rfl
@[simp] theorem State.resetProducer_rawprev (c : Cfg) (s : State) : (s.resetProducer c).rawprev = List.replicate c.nb 0 := rfl
@[simp] theorem State.resetProducer_front (c : Cfg) (s : State) : (s.resetProducer c).front = Front.reset c := rfl
@[simp] theorem State.resetProducer_track (c : Cfg) (s : State) : (s.resetProducer c).track = Track.reset c := rfl
@[simp] theorem State.resetProducer_frame (c : Cfg) (s : State) : (s.resetProducer c).frame = Frame.zero c := rfl

/-! ### `hardReset` -/

@[simp] theorem State.hardReset_tun (c : Cfg) (s : State) : (s.hardReset c).tun = Tunables.reset := rfl
@[simp] theorem State.hardReset_tick (c : Cfg) (s : State) : (s.hardReset c).tick = 0 := rfl
@[simp] theorem State.hardReset_guard (c : Cfg) (s : State) : (s.hardReset c).guard = 0 := rfl
@[simp] theorem State.hardReset_readyLast (c : Cfg) (s : State) : (s.hardReset c).readyLast = false := rfl
@[simp] theorem State.hardReset_post (c : Cfg) (s : State) : (s.hardReset c).post = Post.reset c := rfl
@[simp] theorem State.hardReset_rawprev (c : Cfg) (s : State) : (s.hardReset c).rawprev = List.replicate c.nb 0 := rfl
@[simp] theorem State.hardReset_front (c : Cfg) (s : State) : (s.hardReset c).front = Front.reset c := rfl
@[simp] theorem State.hardReset_track (c : Cfg) (s : State) : (s.hardReset c).track = Track.reset c := rfl
@[simp] theorem State.hardReset_frame (c : Cfg) (s : State) : (s.hardReset c).frame = Frame.zero c := rfl
@[simp] theorem State.hardReset_bus (c : Cfg) (s : State) : (s.hardReset c).bus = Bus.reset := rfl
@[simp] theorem State.hardReset_ctl (c : Cfg) (s : State) : (s.hardReset c).ctl = s.ctl.reset := rfl
@[simp] theorem State.hardReset_readers (c : Cfg) (s : State) : (s.hardReset c).readers = s.readers.map PortState.reset := rfl
@[simp] theorem State.hardReset_cur (c : Cfg) (s : State) : (s.hardReset c).cur = .control := rfl
@[simp] theorem State.hardReset_turns (c : Cfg) (s : State) : (s.hardReset c).turns = s.turns := rfl

/-! ### The fields the updates do change -/

@[simp] theorem State.bumpSeq_slot (s : State) : s.bumpSeq.bus.slot = s.bus.slot := rfl
@[simp] theorem State.bumpSeq_epoch (s : State) : s.bumpSeq.bus.epoch = s.bus.epoch := rfl
@[simp] theorem State.bumpSeq_wseq (s : State) : s.bumpSeq.bus.wseq = s.bus.wseq + 1 := rfl
@[simp] theorem State.writeSlot_slot (s : State) (w : Nat) (v : Word) :
    (s.writeSlot w v).bus.slot = s.bus.slot.writeWord w v := rfl
@[simp] theorem State.writeSlot_epoch (s : State) (w : Nat) (v : Word) :
    (s.writeSlot w v).bus.epoch = s.bus.epoch := rfl
@[simp] theorem State.writeSlot_wseq (s : State) (w : Nat) (v : Word) :
    (s.writeSlot w v).bus.wseq = s.bus.wseq := rfl
@[simp] theorem State.setEpoch_slot (s : State) (e : Word) : (s.setEpoch e).bus.slot = s.bus.slot := rfl
@[simp] theorem State.setEpoch_epoch (s : State) (e : Word) : (s.setEpoch e).bus.epoch = e := rfl
@[simp] theorem State.setEpoch_wseq (s : State) (e : Word) : (s.setEpoch e).bus.wseq = s.bus.wseq := rfl
@[simp] theorem State.fetched_cur (s : State) (p : Port) (rest : List Word) : (s.fetched p rest).cur = p := rfl

/-! ### Ports -/

@[simp] theorem State.port?_control (s : State) : s.port? .control = some s.ctl := rfl

@[simp] theorem State.modPort_ctl_control (s : State) (f : PortState → PortState) :
    (s.modPort .control f).ctl = f s.ctl := rfl

@[simp] theorem State.modPort_ctl_reader (s : State) (r : Nat) (f : PortState → PortState) :
    (s.modPort (.reader r) f).ctl = s.ctl := rfl

@[simp] theorem State.modPort_readers_control (s : State) (f : PortState → PortState) :
    (s.modPort .control f).readers = s.readers := rfl

/-- Changing a port changes that port, if the block has it. -/
@[simp] theorem State.port?_modPort_self (s : State) (p : Port) (f : PortState → PortState) :
    (s.modPort p f).port? p = (s.port? p).map f := by
  cases p with
  | control => rfl
  | reader r => cases r <;> simp [State.modPort, State.port?]

/-- Changing a port leaves every other port alone. -/
theorem State.port?_modPort_other (s : State) {p q : Port} (h : q ≠ p) (f : PortState → PortState) :
    (s.modPort p f).port? q = s.port? q := by
  cases p with
  | control => cases q with
    | control => exact absurd rfl h
    | reader r => cases r <;> rfl
  | reader a => cases q with
    | control => cases a <;> rfl
    | reader b => cases a with
      | zero => cases b <;> rfl
      | succ a => cases b with
        | zero => rfl
        | succ b =>
          have : a ≠ b := by rintro rfl; exact h rfl
          simp [State.modPort, State.port?, this]

/-- Changing a port keeps the number of ports. -/
@[simp] theorem State.modPort_readers_length (s : State) (p : Port) (f : PortState → PortState) :
    (s.modPort p f).readers.length = s.readers.length := by
  cases p with
  | control => rfl
  | reader r => cases r <;> simp [State.modPort]

/-! ### The writer's sequence -/

/-- A run of slot writes is a change of the slot alone. -/
theorem State.writeSlots_eq (s : State) (w : Nat) (ws : List Word) :
    s.writeSlots w ws = { s with bus := { s.bus with slot := (s.writeSlots w ws).bus.slot } } := by
  induction ws generalizing s w with
  | nil => rfl
  | cons v rest ih => rw [State.writeSlots, ih]; rfl

/-- The whole of what a writer's sequence does: the slot, `S.wseq` plus 2, `S.epoch`, and nothing else. -/
theorem State.writeSequence_eq (s : State) (ws : List Word) (e : Word) :
    s.writeSequence ws e =
      { s with bus := { slot := (s.writeSlots 0 ws).bus.slot, epoch := e, wseq := s.bus.wseq + 1 + 1 } } := by
  have slot_of_bumped : ∀ (l : List Word) (t : State) (w : Nat),
      (t.bumpSeq.writeSlots w l).bus.slot = (t.writeSlots w l).bus.slot := by
    intro l
    induction l with
    | nil => intro t w; rfl
    | cons v rest ih => intro t w; exact ih (t.writeSlot w v) (w + 1)
  unfold State.writeSequence
  rw [State.writeSlots_eq, slot_of_bumped]
  rfl

/-! ### `writeSequence` -/

@[simp] theorem State.writeSequence_tun (s : State) (ws : List Word) (e : Word) : (s.writeSequence ws e).tun = s.tun := by
  rw [State.writeSequence_eq]
@[simp] theorem State.writeSequence_tick (s : State) (ws : List Word) (e : Word) : (s.writeSequence ws e).tick = s.tick := by
  rw [State.writeSequence_eq]
@[simp] theorem State.writeSequence_guard (s : State) (ws : List Word) (e : Word) : (s.writeSequence ws e).guard = s.guard := by
  rw [State.writeSequence_eq]
@[simp] theorem State.writeSequence_readyLast (s : State) (ws : List Word) (e : Word) : (s.writeSequence ws e).readyLast = s.readyLast := by
  rw [State.writeSequence_eq]
@[simp] theorem State.writeSequence_post (s : State) (ws : List Word) (e : Word) : (s.writeSequence ws e).post = s.post := by
  rw [State.writeSequence_eq]
@[simp] theorem State.writeSequence_rawprev (s : State) (ws : List Word) (e : Word) : (s.writeSequence ws e).rawprev = s.rawprev := by
  rw [State.writeSequence_eq]
@[simp] theorem State.writeSequence_front (s : State) (ws : List Word) (e : Word) : (s.writeSequence ws e).front = s.front := by
  rw [State.writeSequence_eq]
@[simp] theorem State.writeSequence_track (s : State) (ws : List Word) (e : Word) : (s.writeSequence ws e).track = s.track := by
  rw [State.writeSequence_eq]
@[simp] theorem State.writeSequence_frame (s : State) (ws : List Word) (e : Word) : (s.writeSequence ws e).frame = s.frame := by
  rw [State.writeSequence_eq]
@[simp] theorem State.writeSequence_ctl (s : State) (ws : List Word) (e : Word) : (s.writeSequence ws e).ctl = s.ctl := by
  rw [State.writeSequence_eq]
@[simp] theorem State.writeSequence_readers (s : State) (ws : List Word) (e : Word) : (s.writeSequence ws e).readers = s.readers := by
  rw [State.writeSequence_eq]
@[simp] theorem State.writeSequence_cur (s : State) (ws : List Word) (e : Word) : (s.writeSequence ws e).cur = s.cur := by
  rw [State.writeSequence_eq]
@[simp] theorem State.writeSequence_turns (s : State) (ws : List Word) (e : Word) : (s.writeSequence ws e).turns = s.turns := by
  rw [State.writeSequence_eq]
@[simp] theorem State.writeSequence_epoch (s : State) (ws : List Word) (e : Word) : (s.writeSequence ws e).bus.epoch = e := rfl
@[simp] theorem State.writeSequence_wseq (s : State) (ws : List Word) (e : Word) :
    (s.writeSequence ws e).bus.wseq = s.bus.wseq + 1 + 1 := by
  rw [State.writeSequence_eq]

end Sys2Proof.Machine
end

