-- ==== Sys2Proof/Laws/Arith.lean ====
section
/-! SUPPORT. What the integer primitives of R12 and R13 can do, said once for each. -/

namespace Sys2Proof.Machine

/-! ### Division -/

/-- `fdiv` is the floor: the largest quotient whose product does not exceed the dividend. -/
theorem fdiv_spec {a b : Int} (hb : 0 < b) : fdiv a b * b ≤ a ∧ a < (fdiv a b + 1) * b := by
  refine ⟨Int.ediv_mul_le a hb.ne', ?_⟩
  have := Int.lt_ediv_add_one_mul_self a hb
  simpa [fdiv] using this

/-- `cdiv` is the ceiling: the smallest quotient whose product reaches the dividend. -/
theorem cdiv_spec {a b : Int} (hb : 0 < b) : a ≤ cdiv a b * b ∧ (cdiv a b - 1) * b < a := by
  have h := fdiv_spec (a := -a) hb
  simp only [fdiv] at h
  unfold cdiv
  constructor <;> nlinarith [h.1, h.2]

/-- `emod` lies in `[0, b)`. -/
theorem emod_spec {a b : Int} (hb : 0 < b) : 0 ≤ emod a b ∧ emod a b < b :=
  ⟨Int.emod_nonneg a hb.ne', Int.emod_lt_of_pos a hb⟩

/-! ### Saturation -/

/-- A clamped value lies in the range, and a value of the range is not changed. -/
theorem clampInt_spec {v lo hi : Int} (h : lo ≤ hi) :
    lo ≤ clampInt v lo hi ∧ clampInt v lo hi ≤ hi ∧ (lo ≤ v → v ≤ hi → clampInt v lo hi = v) := by
  unfold clampInt; omega

theorem sat16_spec (v : Int) :
    -32768 ≤ sat16 v ∧ sat16 v ≤ 32767 ∧ (-32768 ≤ v → v ≤ 32767 → sat16 v = v) := by
  unfold sat16; omega

theorem sat32_spec (v : Int) :
    -2147483648 ≤ sat32 v ∧ sat32 v ≤ 2147483647 ∧
      (-2147483648 ≤ v → v ≤ 2147483647 → sat32 v = v) := by
  unfold sat32; omega

/-! ### Exponential smoothing -/

/-- One smoothing step never leaves the segment between the state and the target (R13). -/
theorem ema_between {s x a : Int} (h0 : 0 ≤ a) (h1 : a ≤ 65536) :
    min s x ≤ ema s x a ∧ ema s x a ≤ max s x := by
  unfold ema
  split_ifs with h
  · have hc := cdiv_spec (a := (x - s) * a) (b := 65536) (by norm_num)
    have hlo : 0 ≤ (x - s) * a := mul_nonneg (by omega) h0
    have hhi : (x - s) * a ≤ (x - s) * 65536 := mul_le_mul_of_nonneg_left h1 (by omega)
    constructor <;> omega
  · have hc := cdiv_spec (a := (s - x) * a) (b := 65536) (by norm_num)
    have hlo : 0 ≤ (s - x) * a := mul_nonneg (by omega) h0
    have hhi : (s - x) * a ≤ (s - x) * 65536 := mul_le_mul_of_nonneg_left h1 (by omega)
    constructor <;> omega

/-- A state at its target stays there (R13). -/
@[simp] theorem ema_self (s a : Int) : ema s s a = s := by simp [ema, cdiv]

/-! ### Square root -/

/-- The bits tried so far stay a square root, and no larger one exists within the bits still to try. -/
theorem sqrtBits_spec (b v r : Nat) (hr : r * r ≤ v) (hv : v < (r + 2 ^ b) * (r + 2 ^ b)) :
    sqrtBits b v r * sqrtBits b v r ≤ v ∧ v < (sqrtBits b v r + 1) * (sqrtBits b v r + 1) := by
  induction b generalizing r with
  | zero => exact ⟨hr, by simpa [sqrtBits] using hv⟩
  | succ b ih =>
    unfold sqrtBits
    split_ifs with h
    · exact ih _ h (by rwa [show r + 2 ^ b + 2 ^ b = r + 2 ^ (b + 1) by ring])
    · exact ih _ hr (by omega)

/-- `isqrt(v)` is the largest `r` with `r·r ≤ v` (R12). -/
theorem isqrt_spec {v : Int} (hv : 0 ≤ v) :
    0 ≤ isqrt v ∧ isqrt v * isqrt v ≤ v ∧ v < (isqrt v + 1) * (isqrt v + 1) := by
  obtain ⟨n, rfl⟩ := Int.eq_ofNat_of_zero_le hv
  have hlt : n < (0 + 2 ^ (n.log2 / 2 + 1)) * (0 + 2 ^ (n.log2 / 2 + 1)) := by
    rw [Nat.zero_add, ← Nat.pow_add]
    calc n < 2 ^ (n.log2 + 1) := Nat.lt_log2_self
      _ ≤ 2 ^ (n.log2 / 2 + 1 + (n.log2 / 2 + 1)) := Nat.pow_le_pow_right (by norm_num) (by omega)
  have h := sqrtBits_spec (n.log2 / 2 + 1) n 0 (by omega) hlt
  unfold isqrt
  simp only [Int.toNat_natCast]
  exact ⟨by positivity, by exact_mod_cast h.1, by exact_mod_cast h.2⟩

/-! ### Rings -/

/-- A pushed ring ends with the new value and is never longer than its depth. -/
theorem push_length {α : Type} (ring : List α) (v : α) {depth : Nat} (h : ring.length ≤ depth) :
    (push ring v depth).length = min (ring.length + 1) depth := by
  unfold push
  split_ifs with hlong
  · simp at hlong ⊢; omega
  · simp at hlong ⊢; omega

/-! ### Stored fields -/

theorem uval_nonneg {w : Nat} (b : BitVec w) : 0 ≤ uval b := Int.natCast_nonneg _

theorem uval_lt {w : Nat} (b : BitVec w) : uval b < 2 ^ w := by
  have := b.isLt
  unfold uval
  exact_mod_cast this

/-- A value that fits its u32 field reads back as it was stored. -/
theorem uval_u32 {v : Int} (h0 : 0 ≤ v) (h1 : v < 4294967296) : uval (u32 v) = v := by
  unfold uval u32
  rw [BitVec.toNat_ofInt]
  omega

/-- A value that fits its u16 field reads back as it was stored. -/
theorem uval_u16 {v : Int} (h0 : 0 ≤ v) (h1 : v < 65536) : uval (u16 v) = v := by
  unfold uval u16
  rw [BitVec.toNat_ofInt]
  omega

end Sys2Proof.Machine
end

