-- ==== Sys2Proof/Laws/Memory.lean ====
section
/-! SUPPORT. The slot memory: what a read gives after a write, the canonical form every write keeps, and equality of
canonical memories that read alike. -/

namespace Sys2Proof.Machine

@[simp] theorem Memory.read_nil (x : Nat) : Memory.read [] x = defaultByte := rfl

theorem Memory.read_cons (a : Nat) (b : Byte) (rest : Memory) (x : Nat) :
    Memory.read ((a, b) :: rest) x = if a = x then b else Memory.read rest x := rfl

/-- Below the first address a canonical memory may list, every byte reads as the default. -/
theorem Memory.read_below {top lo : Nat} {m : Memory} (h : Memory.wfFrom top lo m = true) {x : Nat} (hx : x < lo) :
    m.read x = defaultByte := by
  induction m generalizing lo with
  | nil => rfl
  | cons c rest ih =>
    obtain ⟨a, b⟩ := c
    simp only [Memory.wfFrom, Bool.and_eq_true, decide_eq_true_eq] at h
    obtain ⟨⟨⟨hlo, -⟩, -⟩, hrest⟩ := h
    rw [Memory.read_cons, if_neg (by omega)]
    exact ih hrest (by omega)

/-- At or above the top of the slot every byte of a canonical memory reads as the default. -/
theorem Memory.read_above {top lo : Nat} {m : Memory} (h : Memory.wfFrom top lo m = true) {x : Nat} (hx : top ≤ x) :
    m.read x = defaultByte := by
  induction m generalizing lo with
  | nil => rfl
  | cons c rest ih =>
    obtain ⟨a, b⟩ := c
    simp only [Memory.wfFrom, Bool.and_eq_true, decide_eq_true_eq] at h
    obtain ⟨⟨⟨-, hlt⟩, -⟩, hrest⟩ := h
    rw [Memory.read_cons, if_neg (by omega)]
    exact ih hrest

/-- Reading after a write: the byte written at its address, and at every other address what was there. -/
theorem Memory.read_write_from {top lo : Nat} {m : Memory} (h : Memory.wfFrom top lo m = true) (x y : Nat) (v : Byte) :
    (m.write x v).read y = if y = x then v else m.read y := by
  induction m generalizing lo with
  | nil =>
    unfold Memory.write
    split_ifs with hv hy hy
    · rw [hv]; rfl
    · rfl
    · rw [Memory.read_cons, if_pos hy.symm]
    · rw [Memory.read_cons, if_neg (fun e => hy e.symm)]
  | cons c rest ih =>
    obtain ⟨a, b⟩ := c
    have hfull := h
    simp only [Memory.wfFrom, Bool.and_eq_true, decide_eq_true_eq] at h
    obtain ⟨⟨⟨hlo, -⟩, -⟩, hrest⟩ := h
    unfold Memory.write
    by_cases hax : a < x
    · rw [if_pos hax]
      by_cases hay : a = y
      · rw [Memory.read_cons, if_pos hay, if_neg (by omega), Memory.read_cons, if_pos hay]
      · rw [Memory.read_cons, if_neg hay, ih hrest, Memory.read_cons, if_neg hay]
    · rw [if_neg hax]
      by_cases hxe : a = x
      · rw [if_pos hxe]
        by_cases hv : v = defaultByte
        · rw [if_pos hv]
          by_cases hy : y = x
          · rw [if_pos hy, hv, Memory.read_below hrest (by omega)]
          · rw [if_neg hy, Memory.read_cons, if_neg (by omega)]
        · rw [if_neg hv]
          by_cases hy : y = x
          · rw [if_pos hy, Memory.read_cons, if_pos hy.symm]
          · rw [if_neg hy, Memory.read_cons, if_neg (fun e => hy e.symm), Memory.read_cons, if_neg (by omega)]
      · rw [if_neg hxe]
        by_cases hv : v = defaultByte
        · rw [if_pos hv]
          by_cases hy : y = x
          · have hstart : Memory.wfFrom top a ((a, b) :: rest) = true := by
              simpa [Memory.wfFrom] using (by simpa [Memory.wfFrom, hlo] using hfull : _)
            rw [if_pos hy, hv, Memory.read_below hstart (by omega)]
          · rw [if_neg hy]
        · rw [if_neg hv]
          by_cases hy : y = x
          · rw [if_pos hy, Memory.read_cons, if_pos hy.symm]
          · rw [if_neg hy, Memory.read_cons, if_neg (fun e => hy e.symm)]

/-- A write keeps the canonical form. -/
theorem Memory.wfFrom_write {top lo : Nat} {m : Memory} (h : Memory.wfFrom top lo m = true) {x : Nat} (hlo : lo ≤ x)
    (htop : x < top) (v : Byte) : Memory.wfFrom top lo (m.write x v) = true := by
  induction m generalizing lo with
  | nil =>
    unfold Memory.write
    split_ifs with hv
    · rfl
    · simp [Memory.wfFrom, hlo, htop, hv]
  | cons c rest ih =>
    obtain ⟨a, b⟩ := c
    simp only [Memory.wfFrom, Bool.and_eq_true, decide_eq_true_eq] at h
    obtain ⟨⟨⟨hla, hat⟩, hb⟩, hrest⟩ := h
    unfold Memory.write
    split_ifs with hax hxe hv hv
    · simp [Memory.wfFrom, hla, hat, hb, ih hrest (by omega)]
    · subst hxe
      have weaken : ∀ (l : Memory) (k : Nat), lo ≤ k → Memory.wfFrom top k l = true → Memory.wfFrom top lo l = true := by
        intro l k hk hl
        cases l with
        | nil => rfl
        | cons d t =>
          simp only [Memory.wfFrom, Bool.and_eq_true, decide_eq_true_eq] at hl ⊢
          exact ⟨⟨⟨by omega, hl.1.1.2⟩, hl.1.2⟩, hl.2⟩
      exact weaken rest (a + 1) (by omega) hrest
    · subst hxe
      simp [Memory.wfFrom, hla, hat, hv, hrest]
    · simp [Memory.wfFrom, hla, hat, hb, hrest]
    · simp [Memory.wfFrom, hlo, htop, hv, hat, hb, hrest]; omega

/-- Canonical memories that read alike are equal. -/
theorem Memory.ext_from {top lo : Nat} {m n : Memory} (hm : Memory.wfFrom top lo m = true)
    (hn : Memory.wfFrom top lo n = true) (h : ∀ x, m.read x = n.read x) : m = n := by
  induction m generalizing lo n with
  | nil =>
    cases n with
    | nil => rfl
    | cons d t =>
      obtain ⟨a, b⟩ := d
      simp only [Memory.wfFrom, Bool.and_eq_true, decide_eq_true_eq] at hn
      have := h a
      rw [Memory.read_nil, Memory.read_cons, if_pos rfl] at this
      exact absurd this.symm hn.1.2
  | cons c rest ih =>
    obtain ⟨a, b⟩ := c
    have hm' := hm
    simp only [Memory.wfFrom, Bool.and_eq_true, decide_eq_true_eq] at hm
    obtain ⟨⟨⟨hla, hat⟩, hb⟩, hrest⟩ := hm
    cases n with
    | nil =>
      have := h a
      rw [Memory.read_cons, if_pos rfl, Memory.read_nil] at this
      exact absurd this hb
    | cons d t =>
      obtain ⟨a', b'⟩ := d
      have hn' := hn
      simp only [Memory.wfFrom, Bool.and_eq_true, decide_eq_true_eq] at hn
      obtain ⟨⟨⟨hla', hat'⟩, hb'⟩, ht⟩ := hn
      have hstart : Memory.wfFrom top a ((a, b) :: rest) = true := by simp [Memory.wfFrom, hat, hb, hrest]
      have hstart' : Memory.wfFrom top a' ((a', b') :: t) = true := by simp [Memory.wfFrom, hat', hb', ht]
      have haa : a = a' := by
        rcases Nat.lt_trichotomy a a' with hlt | heq | hgt
        · have := h a
          rw [Memory.read_cons, if_pos rfl, Memory.read_below hstart' hlt] at this
          exact absurd this hb
        · exact heq
        · have := h a'
          rw [Memory.read_below hstart hgt, Memory.read_cons, if_pos rfl] at this
          exact absurd this.symm hb'
      subst haa
      have hbb : b = b' := by
        have := h a
        rwa [Memory.read_cons, if_pos rfl, Memory.read_cons, if_pos rfl] at this
      subst hbb
      have htail : rest = t := by
        refine ih hrest ht fun x => ?_
        by_cases hx : x = a
        · subst hx
          rw [Memory.read_below hrest (by omega), Memory.read_below ht (by omega)]
        · have := h x
          rwa [Memory.read_cons, if_neg (fun e => hx e.symm), Memory.read_cons, if_neg (fun e => hx e.symm)] at this
      rw [htail]

/-! ### The slot -/

/-- Reading a byte of the slot after a byte write. -/
theorem Memory.read_write {m : Memory} (h : m.wf = true) (x y : Nat) (v : Byte) :
    (m.write x v).read y = if y = x then v else m.read y := Memory.read_write_from h x y v

/-- A byte write inside the slot keeps the canonical form. -/
theorem Memory.wf_write {m : Memory} (h : m.wf = true) {x : Nat} (hx : x < frameBytes cfg) (v : Byte) :
    (m.write x v).wf = true := Memory.wfFrom_write h (Nat.zero_le _) hx v

/-- The empty memory is canonical. -/
@[simp] theorem Memory.wf_nil : Memory.wf [] = true := rfl

/-- A word write inside the slot keeps the canonical form. -/
theorem Memory.wf_writeWord {m : Memory} (h : m.wf = true) {w : Nat} (hw : w < slotWords cfg) (v : Word) :
    (m.writeWord w v).wf = true := by
  have hb : frameBytes cfg = 4 * slotWords cfg := rfl
  exact Memory.wf_write (Memory.wf_write (Memory.wf_write (Memory.wf_write h (by omega) _) (by omega) _)
    (by omega) _) (by omega) _

/-- Reading a byte after a word write inside the slot: one of the word's four bytes at its four addresses, low
byte first, and at every other address what was there. -/
theorem Memory.read_writeWord {m : Memory} (h : m.wf = true) {w : Nat} (hw : w < slotWords cfg) (v : Word) (y : Nat) :
    (m.writeWord w v).read y =
      if y = 4 * w + 3 then v.extractLsb' 24 8
      else if y = 4 * w + 2 then v.extractLsb' 16 8
      else if y = 4 * w + 1 then v.extractLsb' 8 8
      else if y = 4 * w then v.extractLsb' 0 8
      else m.read y := by
  have hb : frameBytes cfg = 4 * slotWords cfg := rfl
  have h1 := Memory.wf_write h (x := 4 * w) (by omega) (v.extractLsb' 0 8)
  have h2 := Memory.wf_write h1 (x := 4 * w + 1) (by omega) (v.extractLsb' 8 8)
  have h3 := Memory.wf_write h2 (x := 4 * w + 2) (by omega) (v.extractLsb' 16 8)
  rw [Memory.writeWord, Memory.read_write h3, Memory.read_write h2, Memory.read_write h1, Memory.read_write h]

/-- A word is its four bytes. -/
theorem wordOfBytes_bytes (v : Word) :
    wordOfBytes (v.extractLsb' 0 8) (v.extractLsb' 8 8) (v.extractLsb' 16 8) (v.extractLsb' 24 8) = v := by
  apply BitVec.eq_of_getLsbD_eq
  intro i hi
  unfold wordOfBytes
  rw [BitVec.getLsbD_append, BitVec.getLsbD_append, BitVec.getLsbD_append]
  simp only [BitVec.getLsbD_extractLsb']
  split_ifs with h0 h1 h2
  · simp [h0]
  · simp [h1, show 8 + (i - 8) = i by omega]
  · simp [h2, show 16 + (i - 8 - 8) = i by omega]
  · simp [show i - 8 - 8 - 8 < 8 by omega, show 24 + (i - 8 - 8 - 8) = i by omega]

/-- `MemRead` after `MemWrite` (R82): the word written, and every other word as it was. -/
theorem Memory.readWord_writeWord {m : Memory} (h : m.wf = true) {w : Nat} (hw : w < slotWords cfg) (v : Word)
    (u : Nat) : (m.writeWord w v).readWord u = if u = w then v else m.readWord u := by
  unfold Memory.readWord
  simp only [Memory.read_writeWord h hw]
  by_cases hu : u = w
  · subst hu
    simp [wordOfBytes_bytes]
  · simp only [if_neg hu]
    have apart : ∀ i j, i < 4 → j < 4 → ¬ (4 * u + i = 4 * w + j) := fun i j hi hj e => hu (by omega)
    have h0 := fun j hj => apart 0 j (by omega) hj
    simp only [Nat.add_zero] at h0
    have hz := fun i hi => apart i 0 hi (by omega)
    simp only [Nat.add_zero] at hz
    have h00 : ¬ (4 * u = 4 * w) := by omega
    simp only [apart, h0, hz, h00, if_false, Nat.reduceLT]

end Sys2Proof.Machine
end

