-- ==== Sys2Proof/Laws/Step.lean ====
section
/-! SUPPORT. What each shared operation can do, said once: responses, the arms of `exec`, the bus accesses, and the
moves of a step. -/

namespace Sys2Proof.Machine

/-! ### Responses -/

/-- Answering changes nothing but the words the port has sent. -/
theorem respond_onlyAnswered (s : State) (st : Status) (data : List Word) :
    onlyAnswered s (s.respond st data) (response st data) := by
  refine ⟨⟨?_, ?_, rfl, rfl⟩, ⟨rfl, rfl, rfl, rfl, rfl, rfl, rfl, rfl, rfl⟩, ⟨fun _ => rfl, rfl, rfl⟩⟩
  · simp [State.respond, State.respondOn]
  · intro q hq
    exact State.port?_modPort_other s hq _

/-- The header alone, for each status. -/
theorem response_empty (st : Status) :
    response st [] = [match st with
      | .ok => 0x00000000
      | .okClamped => 0x01000000
      | .noData => 0x02000000
      | .illegal => 0x03000000] := by
  cases st <;> decide

/-- The response that carries one word. -/
theorem response_one (v : Word) : response .ok [v] = [0x00000001, v] := by
  have h : header .ok 1 = 0x00000001 := by decide
  simp only [response, List.length_singleton, h]

/-- The response that carries the words of the slot. -/
theorem response_frame {data : List Word} (hl : data.length = 219) : response .ok data = 0x000000DB :: data := by
  have h : header .ok 219 = 0x000000DB := by decide
  simp only [response, hl, h]

/-- A command of port P has its effect on port P and is answered `ILLEGAL` on any other. -/
theorem onControl_eq (s t : State) :
    s.onControl t = .next (if s.cur.isControl then t else s.raise .illegal) := by
  unfold State.onControl
  split <;> rfl

/-- No command stops a block of any configuration. -/
theorem execWith_isNext (c : Cfg) (i : Instr) (s : State) : ∃ t, execWith c i s = .next t := by
  cases i <;> first | exact ⟨_, rfl⟩ | exact ⟨_, onControl_eq _ _⟩

/-- The dispatch is that of any configuration, at the reference one. -/
theorem exec_eq (i : Instr) (s : State) : exec i s = execWith cfg i s := by cases i <;> rfl

/-- No command stops the machine. -/
theorem exec_isNext (i : Instr) (s : State) : ∃ t, exec i s = .next t := exec_eq i s ▸ execWith_isNext cfg i s

/-! ### Bus accesses -/

/-- What one write of a writer's sequence can be. -/
theorem writeAccess_cases {c : Cfg} {s t : State} {ws : List Word} {e : Word} {ph : WritePhase} {more : Option WritePhase}
    (h : s.writeAccess c ws e ph = some (t, more)) :
    (ph = .openSeq ∧ t = s.bumpSeq ∧ more = some (.word 0))
      ∨ (∃ w, ph = .word w ∧ w < slotWords c ∧ t = s.writeSlot w (ws.getD w 0) ∧ more = some (.afterWord c w))
      ∨ (ph = .closeSeq ∧ t = s.bumpSeq ∧ more = some .epoch)
      ∨ (ph = .epoch ∧ t = s.setEpoch e ∧ more = none) := by
  cases ph with
  | openSeq => simp only [State.writeAccess, Option.some.injEq, Prod.mk.injEq] at h; exact .inl ⟨rfl, h.1.symm, h.2.symm⟩
  | word w =>
    simp only [State.writeAccess] at h
    split at h
    · rename_i hw
      simp only [Option.some.injEq, Prod.mk.injEq] at h
      exact .inr (.inl ⟨w, rfl, hw, h.1.symm, h.2.symm⟩)
    · simp at h
  | closeSeq =>
    simp only [State.writeAccess, Option.some.injEq, Prod.mk.injEq] at h
    exact .inr (.inr (.inl ⟨rfl, h.1.symm, h.2.symm⟩))
  | epoch =>
    simp only [State.writeAccess, Option.some.injEq, Prod.mk.injEq] at h
    exact .inr (.inr (.inr ⟨rfl, h.1.symm, h.2.symm⟩))

/-- What one bus access of a command in progress can be. -/
theorem busAccess_cases {c : Cfg} {s t : State} {p : Port} {b : Busy} (h : s.busAccess c p b = .next t) :
    (∃ ph st u more, b = .publish ph st ∧ s.writeAccess c (frameWords s.frame) s.frame.epoch ph = some (u, more)
        ∧ t = u.afterWrite p more (fun ph' => .publish ph' st) st)
      ∨ (∃ ph u more, b = .clear ph ∧ s.writeAccess c (zeroWords c) 0 ph = some (u, more)
        ∧ t = u.afterWrite p more .clear .ok)
      ∨ (∃ left ph s1 out, b = .snap left ph s1 out ∧ s.readAccess c p left s1 out ph = some t) := by
  cases b with
  | publish ph st =>
    simp only [State.busAccess] at h
    split at h
    · rename_i u more hw
      injection h with h
      exact .inl ⟨ph, st, u, more, rfl, hw, h.symm⟩
    · cases h
  | clear ph =>
    simp only [State.busAccess] at h
    split at h
    · rename_i u more hw
      injection h with h
      exact .inr (.inl ⟨ph, u, more, rfl, hw, h.symm⟩)
    · cases h
  | snap left ph s1 out =>
    simp only [State.busAccess] at h
    split at h
    · rename_i u hw
      injection h with h
      exact .inr (.inr ⟨left, ph, s1, out, rfl, h ▸ hw⟩)
    · cases h

/-! ### Moves -/

/-- Everything a turn of a port's agent can do: a bus access of its command in progress, waiting for a whole
command, answering an illegal one, or running or beginning a legal one. -/
theorem agentTurn_cases {c : Cfg} {s t : State} {p : Port} {f : Instr → State → Host.Outcome State Fault Refusal}
    (h : s.agentTurn c p f = .next t) :
    ∃ ps, s.port? p = some ps ∧
      ((∃ b, ps.busy = some b ∧ s.busAccess c p b = .next t)
        ∨ (ps.busy = none ∧ takeCommand ps.cmds = none ∧ t = s)
        ∨ (∃ w payload rest why, ps.busy = none ∧ takeCommand ps.cmds = some (w, payload, rest)
            ∧ accept p.isControl w payload = .error why ∧ t = (s.fetched p rest).raise .illegal)
        ∨ (∃ w payload rest i, ps.busy = none ∧ takeCommand ps.cmds = some (w, payload, rest)
            ∧ accept p.isControl w payload = .ok i ∧ f i (s.fetched p rest) = .next t)) := by
  simp only [State.agentTurn] at h
  split at h
  · cases h
  · rename_i ps hp
    refine ⟨ps, hp, ?_⟩
    split at h
    · rename_i b hb
      exact .inl ⟨b, hb, h⟩
    · rename_i hb
      simp only [State.start] at h
      split at h
      · rename_i hc
        injection h with h
        exact .inr (.inl ⟨hb, hc, h.symm⟩)
      · rename_i w payload rest hc
        split at h
        · rename_i i ha
          exact .inr (.inr (.inr ⟨w, payload, rest, i, hb, hc, ha, h⟩))
        · rename_i why ha
          injection h with h
          exact .inr (.inr (.inl ⟨w, payload, rest, why, hb, hc, ha, h.symm⟩))

/-- Everything a move can be: a turn of a port's agent, words arriving on a port, or a hardware reset. -/
theorem takeTurn_cases {c : Cfg} {f : Instr → State → Host.Outcome State Fault Refusal} {s t : State} {m : Turn}
    (h : s.takeTurn c f m = .next t) :
    (∃ p, m = .run p ∧ s.agentTurn c p f = .next t)
      ∨ (∃ p, m = .access p ∧ s.agentTurn c p (State.begin c) = .next t)
      ∨ (∃ p ws ps, (m = .deliver p ws ∨ ∃ bs, m = .deliverBytes p bs ∧ wordsOfBytes bs = some ws)
          ∧ s.port? p = some ps ∧ t = s.modPort p fun q => { q with cmds := q.cmds ++ ws })
      ∨ (m = .hardReset ∧ t = s.hardReset c) := by
  have deliver_cases : ∀ {p : Port} {ws : List Word}, s.deliver p ws = .next t →
      ∃ ps, s.port? p = some ps ∧ t = s.modPort p fun q => { q with cmds := q.cmds ++ ws } := by
    intro p ws hd
    simp only [State.deliver] at hd
    split at hd
    · cases hd
    · rename_i ps hp
      injection hd with hd
      exact ⟨ps, hp, hd.symm⟩
  cases m with
  | run p => exact .inl ⟨p, rfl, h⟩
  | access p => exact .inr (.inl ⟨p, rfl, h⟩)
  | deliver p ws =>
    obtain ⟨ps, hp, ht⟩ := deliver_cases h
    exact .inr (.inr (.inl ⟨p, ws, ps, .inl rfl, hp, ht⟩))
  | deliverBytes p bs =>
    simp only [State.takeTurn, State.deliverBytes] at h
    split at h
    · rename_i ws hw
      obtain ⟨ps, hp, ht⟩ := deliver_cases h
      exact .inr (.inr (.inl ⟨p, ws, ps, .inr ⟨bs, rfl, hw⟩, hp, ht⟩))
    · cases h
  | hardReset => injection h with h; exact .inr (.inr (.inr ⟨rfl, h.symm⟩))

/-- The configuration of the model keeps the constraints of R8. -/
theorem cfg_valid : cfgValid cfg = true := by decide +kernel

/-- A configuration that breaks R8 is refused at every step. -/
theorem stepWith_invalid {c : Cfg} (h : cfgValid c = false) (s : State) :
    stepWith c s = .refused .invalidConfig := by simp [stepWith, State.stepBy, h]

/-- A step is one move. -/
theorem step_eq (s : State) : step s = s.advance cfg exec := by simp [step, State.stepBy, cfg_valid]

/-- The machine's step is that of any configuration, at the reference one. -/
theorem step_eq_stepWith (s : State) : step s = stepWith cfg s := by
  rw [step, stepWith, show exec = execWith cfg from funext fun i => funext fun s => exec_eq i s]

/-- The host's machine is that of any configuration and number of readers, at the reference ones. -/
theorem core_eq : Sys2Proof.core = coreWith cfg Config.readers := by
  rw [coreWith, ← show step = stepWith cfg from funext step_eq_stepWith]; rfl

/-- Everything a step of a block of any configuration can be: nothing, in an idle block, or one move, the
environment's next one or a whole command of the first port that has one. -/
theorem stepBy_cases {c : Cfg} {f : Instr → State → Host.Outcome State Fault Refusal} {s t : State}
    (h : s.stepBy c f = .next t) :
    (s.turns = [] ∧ s.nextPort = none ∧ t = s)
      ∨ (∃ m rest, s.turns = m :: rest ∧ State.takeTurn c f { s with turns := rest } m = .next t)
      ∨ (∃ p, s.turns = [] ∧ s.nextPort = some p ∧ s.takeTurn c f (.run p) = .next t) := by
  simp only [State.stepBy] at h
  split at h
  · simp only [State.advance] at h
    split at h
    · rename_i m rest hm
      exact .inr (.inl ⟨m, rest, hm, h⟩)
    · rename_i hm
      split at h
      · rename_i p hp
        exact .inr (.inr ⟨p, hm, hp, h⟩)
      · rename_i hp
        injection h with h
        exact .inl ⟨hm, hp, h.symm⟩
  · cases h

/-- Everything a step can be: nothing, in an idle block, or one move, the environment's next one or a whole
command of the first port that has one. -/
theorem step_cases {s t : State} (h : step s = .next t) :
    (s.turns = [] ∧ s.nextPort = none ∧ t = s)
      ∨ (∃ m rest, s.turns = m :: rest ∧ State.takeTurn cfg exec { s with turns := rest } m = .next t)
      ∨ (∃ p, s.turns = [] ∧ s.nextPort = some p ∧ s.takeTurn cfg exec (.run p) = .next t) := stepBy_cases h

end Sys2Proof.Machine
end

