-- ==== Sys2Proof/Laws/Bus.lean ====
section
/-! SUPPORT. What a writer's run of slot writes leaves in the slot. -/

namespace Sys2Proof.Machine

/-- A run of slot writes keeps the canonical form, leaves each written word as given and every other word and every
byte above the slot alone. -/
theorem writeSlots_slot (ws : List Word) (s : State) (w : Nat) (h : s.bus.slot.wf = true)
    (hl : w + ws.length ≤ slotWords cfg) :
    (s.writeSlots w ws).bus.slot.wf = true
      ∧ (∀ x, x < slotWords cfg → (s.writeSlots w ws).bus.slot.readWord x =
          if w ≤ x ∧ x < w + ws.length then ws.getD (x - w) 0 else s.bus.slot.readWord x)
      ∧ (∀ a, frameBytes cfg ≤ a → (s.writeSlots w ws).bus.slot.read a = s.bus.slot.read a) := by
  induction ws generalizing s w with
  | nil =>
    refine ⟨h, fun x _ => ?_, fun _ _ => rfl⟩
    have : ¬ (w ≤ x ∧ x < w + 0) := by omega
    simp only [List.length_nil, this, if_false, State.writeSlots]
  | cons v rest ih =>
    have hw : w < slotWords cfg := by simp only [List.length_cons] at hl; omega
    have hwf := Memory.wf_writeWord h hw v
    obtain ⟨h1, h2, h3⟩ := ih (s.writeSlot w v) (w + 1) hwf (by simp only [List.length_cons] at hl; omega)
    refine ⟨h1, fun x hx => ?_, fun a ha => ?_⟩
    · have hr : (s.writeSlots w (v :: rest)).bus.slot.readWord x
          = ((s.writeSlot w v).writeSlots (w + 1) rest).bus.slot.readWord x := rfl
      rw [hr, h2 x hx, State.writeSlot_slot, Memory.readWord_writeWord h hw]
      simp only [List.length_cons]
      rcases Nat.lt_trichotomy x w with hlt | rfl | hgt
      · have c1 : ¬ (w + 1 ≤ x ∧ x < w + 1 + rest.length) := by omega
        have c2 : ¬ (w ≤ x ∧ x < w + (rest.length + 1)) := by omega
        have c3 : ¬ x = w := by omega
        simp only [c1, c2, c3, if_false]
      · have c1 : ¬ (x + 1 ≤ x ∧ x < x + 1 + rest.length) := by omega
        have c2 : x ≤ x ∧ x < x + (rest.length + 1) := by omega
        simp only [c1, c2, if_false, and_self, if_true, Nat.sub_self, List.getD_cons_zero]
      · by_cases hin : x < w + 1 + rest.length
        · have c1 : w + 1 ≤ x ∧ x < w + 1 + rest.length := by omega
          have c2 : w ≤ x ∧ x < w + (rest.length + 1) := by omega
          have c3 : x - w = (x - (w + 1)) + 1 := by omega
          simp only [c1, c2, and_self, if_true, c3, List.getD_cons_succ]
        · have c1 : ¬ (w + 1 ≤ x ∧ x < w + 1 + rest.length) := by omega
          have c2 : ¬ (w ≤ x ∧ x < w + (rest.length + 1)) := by omega
          have c3 : ¬ x = w := by omega
          simp only [c1, c2, c3, if_false]
    · have hr : (s.writeSlots w (v :: rest)).bus.slot.read a
          = ((s.writeSlot w v).writeSlots (w + 1) rest).bus.slot.read a := rfl
      rw [hr, h3 a ha, State.writeSlot_slot, Memory.read_writeWord h hw]
      have hb : frameBytes cfg = 4 * slotWords cfg := rfl
      have c0 : ¬ a = 4 * w := by omega
      have c1 : ¬ a = 4 * w + 1 := by omega
      have c2 : ¬ a = 4 * w + 2 := by omega
      have c3 : ¬ a = 4 * w + 3 := by omega
      simp only [c0, c1, c2, c3, if_false]

end Sys2Proof.Machine
end

