-- ==== Sys2Proof/Laws/PerInstr.lean ====
section
/-! SUPPORT. Statements about every command, one lemma for each constructor. -/

namespace Sys2Proof

/-- The operation code of a command word is the one it is built from (R111). -/
@[simp] theorem opcField_commandWord (opc sel : Byte) (imm : Half) : opcField (commandWord opc sel imm) = opc := by
  apply BitVec.eq_of_getLsbD_eq
  intro i hi
  simp only [opcField, commandWord, BitVec.getLsbD_extractLsb', BitVec.getLsbD_append, hi, decide_true,
    Bool.true_and]
  have h1 : ¬ (24 + i < 16) := by omega
  have h2 : ¬ (24 + i - 16 < 8) := by omega
  have h3 : 24 + i - 16 - 8 = i := by omega
  simp only [h1, h2, h3, if_false]

/-- The selector of a command word is the one it is built from (R111). -/
@[simp] theorem selField_commandWord (opc sel : Byte) (imm : Half) : selField (commandWord opc sel imm) = sel := by
  apply BitVec.eq_of_getLsbD_eq
  intro i hi
  simp only [selField, commandWord, BitVec.getLsbD_extractLsb', BitVec.getLsbD_append, hi, decide_true,
    Bool.true_and]
  have h1 : ¬ (16 + i < 16) := by omega
  have h2 : 16 + i - 16 < 8 := by omega
  have h3 : 16 + i - 16 = i := by omega
  simp only [h1, h3, hi, if_false, if_true]

/-- The immediate of a command word is the one it is built from (R111). -/
@[simp] theorem immField_commandWord (opc sel : Byte) (imm : Half) : immField (commandWord opc sel imm) = imm := by
  apply BitVec.eq_of_getLsbD_eq
  intro i hi
  simp only [immField, commandWord, BitVec.getLsbD_extractLsb', BitVec.getLsbD_append, hi, decide_true,
    Bool.true_and]
  have h1 : 0 + i < 16 := by omega
  have h2 : 0 + i = i := by omega
  simp only [h2, hi, if_true]

/-- Packing needs one word for each two samples, the last one alone included (R112). -/
theorem packHalves_length (l : List Half) : (packHalves l).length = sampleWords l.length := by
  fun_induction packHalves l with
  | case1 => rfl
  | case2 a => simp [sampleWords]
  | case3 a b rest ih => simp only [List.length_cons, ih, sampleWords]; omega

end Sys2Proof

/-! ### The encoding of a command is as long as its command word says -/

/-- The words of a well-formed command are as many as R113 reads from the first of them. -/
def Sys2Proof.Laws.EncodeLength.Statement (i : Sys2Proof.Instr) : Prop :=
  i.wellFormed = true →
    ∃ w payload, Sys2Proof.encode i = w :: payload ∧ (Sys2Proof.encode i).length = Sys2Proof.commandLength w

namespace Sys2Proof.Laws

theorem EncodeLength.nop : EncodeLength.Statement .nop := fun _ => ⟨_, _, rfl, by decide⟩

theorem EncodeLength.softReset : EncodeLength.Statement .softReset := fun _ => ⟨_, _, rfl, by decide⟩

theorem EncodeLength.processChunk (ts : Word) (samples : List Half) :
    EncodeLength.Statement (.processChunk ts samples) := by
  intro h
  have hl : samples.length < 65536 := by simpa [Instr.wellFormed] using h
  refine ⟨_, _, rfl, ?_⟩
  simp only [encode, commandLength, opcField_commandWord, immField_commandWord, if_true, List.length_cons,
    packHalves_length, BitVec.toNat_ofNat]
  rw [Nat.mod_eq_of_lt (by omega)]
  omega

theorem EncodeLength.setTunable (id : Byte) (v : Word) : EncodeLength.Statement (.setTunable id v) := fun _ =>
  ⟨_, _, rfl, by simp [encode, commandLength, Op.code]⟩

theorem EncodeLength.getTunable (id : Byte) : EncodeLength.Statement (.getTunable id) := fun _ =>
  ⟨_, _, rfl, by simp [encode, commandLength, Op.code]⟩

theorem EncodeLength.getStatus (idx : Byte) : EncodeLength.Statement (.getStatus idx) := fun _ =>
  ⟨_, _, rfl, by simp [encode, commandLength, Op.code]⟩

theorem EncodeLength.snapshot (k : Half) : EncodeLength.Statement (.snapshot k) := fun _ =>
  ⟨_, _, rfl, by simp [encode, commandLength, Op.code]⟩

theorem EncodeLength.getEpoch : EncodeLength.Statement .getEpoch := fun _ => ⟨_, _, rfl, by decide⟩

end Sys2Proof.Laws
end

