-- ==== Sys2Proof/Laws/Stages.lean ====
section
/-! SUPPORT. What each step of the tempo stages does to each field of its state, one lemma per field per step. -/

namespace Sys2Proof.Machine

/-! ### Front end -/

@[simp] theorem ingest_mprev (c : Cfg) (x : List Int) (f : Front) : (ingest c x f).mprev = f.mprev := rfl
@[simp] theorem ingest_havePrev (c : Cfg) (x : List Int) (f : Front) : (ingest c x f).havePrev = f.havePrev := rfl
@[simp] theorem ingest_med (c : Cfg) (x : List Int) (f : Front) : (ingest c x f).med = f.med := rfl
@[simp] theorem ingest_hmix (c : Cfg) (x : List Int) (f : Front) : (ingest c x f).hmix = f.hmix := rfl
@[simp] theorem ingest_hlow (c : Cfg) (x : List Int) (f : Front) : (ingest c x f).hlow = f.hlow := rfl
@[simp] theorem ingest_hmh (c : Cfg) (x : List Int) (f : Front) : (ingest c x f).hmh = f.hmh := rfl
@[simp] theorem ingest_tbuf (c : Cfg) (x : List Int) (f : Front) : (ingest c x f).tbuf = shiftWindow c f.tbuf x := rfl

@[simp] theorem keepSpectrum_tbuf (m : List Int) (f : Front) : (keepSpectrum m f).tbuf = f.tbuf := rfl
@[simp] theorem keepSpectrum_tfill (m : List Int) (f : Front) : (keepSpectrum m f).tfill = f.tfill := rfl
@[simp] theorem keepSpectrum_med (m : List Int) (f : Front) : (keepSpectrum m f).med = f.med := rfl
@[simp] theorem keepSpectrum_hmix (m : List Int) (f : Front) : (keepSpectrum m f).hmix = f.hmix := rfl
@[simp] theorem keepSpectrum_hlow (m : List Int) (f : Front) : (keepSpectrum m f).hlow = f.hlow := rfl
@[simp] theorem keepSpectrum_hmh (m : List Int) (f : Front) : (keepSpectrum m f).hmh = f.hmh := rfl
@[simp] theorem keepSpectrum_mprev (m : List Int) (f : Front) : (keepSpectrum m f).mprev = m.map u32 := rfl
@[simp] theorem keepSpectrum_havePrev (m : List Int) (f : Front) : (keepSpectrum m f).havePrev = true := rfl

@[simp] theorem onsetStage_tbuf (c : Cfg) (m : List Int) (f : Front) : (onsetStage c m f).1.tbuf = f.tbuf := rfl
@[simp] theorem onsetStage_tfill (c : Cfg) (m : List Int) (f : Front) : (onsetStage c m f).1.tfill = f.tfill := rfl
@[simp] theorem onsetStage_mprev (c : Cfg) (m : List Int) (f : Front) : (onsetStage c m f).1.mprev = f.mprev := rfl
@[simp] theorem onsetStage_havePrev (c : Cfg) (m : List Int) (f : Front) : (onsetStage c m f).1.havePrev = f.havePrev := rfl

/-! ### `silenceStep` -/

@[simp] theorem silenceStep_tmix (c : Cfg) (nv : Novelty) (tr : Track) : (silenceStep c nv tr).tmix = tr.tmix := rfl
@[simp] theorem silenceStep_tmh (c : Cfg) (nv : Novelty) (tr : Track) : (silenceStep c nv tr).tmh = tr.tmh := rfl
@[simp] theorem silenceStep_sel (c : Cfg) (nv : Novelty) (tr : Track) : (silenceStep c nv tr).sel = tr.sel := rfl
@[simp] theorem silenceStep_hold (c : Cfg) (nv : Novelty) (tr : Track) : (silenceStep c nv tr).hold = tr.hold := rfl
@[simp] theorem silenceStep_havePeak (c : Cfg) (nv : Novelty) (tr : Track) : (silenceStep c nv tr).havePeak = tr.havePeak := rfl
@[simp] theorem silenceStep_ptarget (c : Cfg) (nv : Novelty) (tr : Track) : (silenceStep c nv tr).ptarget = tr.ptarget := rfl
@[simp] theorem silenceStep_phitarget (c : Cfg) (nv : Novelty) (tr : Track) : (silenceStep c nv tr).phitarget = tr.phitarget := rfl
@[simp] theorem silenceStep_selscore (c : Cfg) (nv : Novelty) (tr : Track) : (silenceStep c nv tr).selscore = tr.selscore := rfl
@[simp] theorem silenceStep_prevphi (c : Cfg) (nv : Novelty) (tr : Track) : (silenceStep c nv tr).prevphi = tr.prevphi := rfl
@[simp] theorem silenceStep_prevphiV (c : Cfg) (nv : Novelty) (tr : Track) : (silenceStep c nv tr).prevphiV = tr.prevphiV := rfl
@[simp] theorem silenceStep_heavyCtr (c : Cfg) (nv : Novelty) (tr : Track) : (silenceStep c nv tr).heavyCtr = tr.heavyCtr := rfl
@[simp] theorem silenceStep_period (c : Cfg) (nv : Novelty) (tr : Track) : (silenceStep c nv tr).period = tr.period := rfl
@[simp] theorem silenceStep_phase (c : Cfg) (nv : Novelty) (tr : Track) : (silenceStep c nv tr).phase = tr.phase := rfl
@[simp] theorem silenceStep_periodSet (c : Cfg) (nv : Novelty) (tr : Track) : (silenceStep c nv tr).periodSet = tr.periodSet := rfl
@[simp] theorem silenceStep_conf (c : Cfg) (nv : Novelty) (tr : Track) : (silenceStep c nv tr).conf = tr.conf := rfl
@[simp] theorem silenceStep_confOn (c : Cfg) (nv : Novelty) (tr : Track) : (silenceStep c nv tr).confOn = tr.confOn := rfl

/-! ### `updateTempograms` -/

@[simp] theorem updateTempograms_sel (c : Cfg) (f : Front) (tr : Track) : (updateTempograms c f tr).sel = tr.sel := rfl
@[simp] theorem updateTempograms_hold (c : Cfg) (f : Front) (tr : Track) : (updateTempograms c f tr).hold = tr.hold := rfl
@[simp] theorem updateTempograms_havePeak (c : Cfg) (f : Front) (tr : Track) : (updateTempograms c f tr).havePeak = tr.havePeak := rfl
@[simp] theorem updateTempograms_ptarget (c : Cfg) (f : Front) (tr : Track) : (updateTempograms c f tr).ptarget = tr.ptarget := rfl
@[simp] theorem updateTempograms_phitarget (c : Cfg) (f : Front) (tr : Track) : (updateTempograms c f tr).phitarget = tr.phitarget := rfl
@[simp] theorem updateTempograms_selscore (c : Cfg) (f : Front) (tr : Track) : (updateTempograms c f tr).selscore = tr.selscore := rfl
@[simp] theorem updateTempograms_prevphi (c : Cfg) (f : Front) (tr : Track) : (updateTempograms c f tr).prevphi = tr.prevphi := rfl
@[simp] theorem updateTempograms_prevphiV (c : Cfg) (f : Front) (tr : Track) : (updateTempograms c f tr).prevphiV = tr.prevphiV := rfl
@[simp] theorem updateTempograms_heavyCtr (c : Cfg) (f : Front) (tr : Track) : (updateTempograms c f tr).heavyCtr = tr.heavyCtr := rfl
@[simp] theorem updateTempograms_period (c : Cfg) (f : Front) (tr : Track) : (updateTempograms c f tr).period = tr.period := rfl
@[simp] theorem updateTempograms_phase (c : Cfg) (f : Front) (tr : Track) : (updateTempograms c f tr).phase = tr.phase := rfl
@[simp] theorem updateTempograms_periodSet (c : Cfg) (f : Front) (tr : Track) : (updateTempograms c f tr).periodSet = tr.periodSet := rfl
@[simp] theorem updateTempograms_conf (c : Cfg) (f : Front) (tr : Track) : (updateTempograms c f tr).conf = tr.conf := rfl
@[simp] theorem updateTempograms_confOn (c : Cfg) (f : Front) (tr : Track) : (updateTempograms c f tr).confOn = tr.confOn := rfl
@[simp] theorem updateTempograms_novEnergy (c : Cfg) (f : Front) (tr : Track) : (updateTempograms c f tr).novEnergy = tr.novEnergy := rfl
@[simp] theorem updateTempograms_silent (c : Cfg) (f : Front) (tr : Track) : (updateTempograms c f tr).silent = tr.silent := rfl
@[simp] theorem updateTempograms_silLevel (c : Cfg) (f : Front) (tr : Track) : (updateTempograms c f tr).silLevel = tr.silLevel := rfl

/-! ### `selectLane` -/

@[simp] theorem selectLane_tmix (c : Cfg) (lanes : List Lane) (tr : Track) : (selectLane c lanes tr).tmix = tr.tmix := rfl
@[simp] theorem selectLane_tmh (c : Cfg) (lanes : List Lane) (tr : Track) : (selectLane c lanes tr).tmh = tr.tmh := rfl
@[simp] theorem selectLane_hold (c : Cfg) (lanes : List Lane) (tr : Track) : (selectLane c lanes tr).hold = tr.hold := rfl
@[simp] theorem selectLane_heavyCtr (c : Cfg) (lanes : List Lane) (tr : Track) : (selectLane c lanes tr).heavyCtr = tr.heavyCtr := rfl
@[simp] theorem selectLane_period (c : Cfg) (lanes : List Lane) (tr : Track) : (selectLane c lanes tr).period = tr.period := rfl
@[simp] theorem selectLane_phase (c : Cfg) (lanes : List Lane) (tr : Track) : (selectLane c lanes tr).phase = tr.phase := rfl
@[simp] theorem selectLane_periodSet (c : Cfg) (lanes : List Lane) (tr : Track) : (selectLane c lanes tr).periodSet = tr.periodSet := rfl
@[simp] theorem selectLane_conf (c : Cfg) (lanes : List Lane) (tr : Track) : (selectLane c lanes tr).conf = tr.conf := rfl
@[simp] theorem selectLane_confOn (c : Cfg) (lanes : List Lane) (tr : Track) : (selectLane c lanes tr).confOn = tr.confOn := rfl
@[simp] theorem selectLane_novEnergy (c : Cfg) (lanes : List Lane) (tr : Track) : (selectLane c lanes tr).novEnergy = tr.novEnergy := rfl
@[simp] theorem selectLane_silent (c : Cfg) (lanes : List Lane) (tr : Track) : (selectLane c lanes tr).silent = tr.silent := rfl
@[simp] theorem selectLane_silLevel (c : Cfg) (lanes : List Lane) (tr : Track) : (selectLane c lanes tr).silLevel = tr.silLevel := rfl
@[simp] theorem selectLane_havePeak (c : Cfg) (lanes : List Lane) (tr : Track) : (selectLane c lanes tr).havePeak = true := rfl

/-! ### `holdStep` -/

@[simp] theorem holdStep_tmix (b : Bool) (tr : Track) : (holdStep b tr).tmix = tr.tmix := rfl
@[simp] theorem holdStep_tmh (b : Bool) (tr : Track) : (holdStep b tr).tmh = tr.tmh := rfl
@[simp] theorem holdStep_sel (b : Bool) (tr : Track) : (holdStep b tr).sel = tr.sel := rfl
@[simp] theorem holdStep_havePeak (b : Bool) (tr : Track) : (holdStep b tr).havePeak = tr.havePeak := rfl
@[simp] theorem holdStep_ptarget (b : Bool) (tr : Track) : (holdStep b tr).ptarget = tr.ptarget := rfl
@[simp] theorem holdStep_phitarget (b : Bool) (tr : Track) : (holdStep b tr).phitarget = tr.phitarget := rfl
@[simp] theorem holdStep_selscore (b : Bool) (tr : Track) : (holdStep b tr).selscore = tr.selscore := rfl
@[simp] theorem holdStep_prevphi (b : Bool) (tr : Track) : (holdStep b tr).prevphi = tr.prevphi := rfl
@[simp] theorem holdStep_prevphiV (b : Bool) (tr : Track) : (holdStep b tr).prevphiV = tr.prevphiV := rfl
@[simp] theorem holdStep_heavyCtr (b : Bool) (tr : Track) : (holdStep b tr).heavyCtr = tr.heavyCtr := rfl
@[simp] theorem holdStep_period (b : Bool) (tr : Track) : (holdStep b tr).period = tr.period := rfl
@[simp] theorem holdStep_phase (b : Bool) (tr : Track) : (holdStep b tr).phase = tr.phase := rfl
@[simp] theorem holdStep_periodSet (b : Bool) (tr : Track) : (holdStep b tr).periodSet = tr.periodSet := rfl
@[simp] theorem holdStep_conf (b : Bool) (tr : Track) : (holdStep b tr).conf = tr.conf := rfl
@[simp] theorem holdStep_confOn (b : Bool) (tr : Track) : (holdStep b tr).confOn = tr.confOn := rfl
@[simp] theorem holdStep_novEnergy (b : Bool) (tr : Track) : (holdStep b tr).novEnergy = tr.novEnergy := rfl
@[simp] theorem holdStep_silent (b : Bool) (tr : Track) : (holdStep b tr).silent = tr.silent := rfl
@[simp] theorem holdStep_silLevel (b : Bool) (tr : Track) : (holdStep b tr).silLevel = tr.silLevel := rfl

/-! ### `confStep` -/

@[simp] theorem confStep_tmix (c : Cfg) (ran : Bool) (tr : Track) : (confStep c ran tr).tmix = tr.tmix := rfl
@[simp] theorem confStep_tmh (c : Cfg) (ran : Bool) (tr : Track) : (confStep c ran tr).tmh = tr.tmh := rfl
@[simp] theorem confStep_sel (c : Cfg) (ran : Bool) (tr : Track) : (confStep c ran tr).sel = tr.sel := rfl
@[simp] theorem confStep_hold (c : Cfg) (ran : Bool) (tr : Track) : (confStep c ran tr).hold = tr.hold := rfl
@[simp] theorem confStep_havePeak (c : Cfg) (ran : Bool) (tr : Track) : (confStep c ran tr).havePeak = tr.havePeak := rfl
@[simp] theorem confStep_ptarget (c : Cfg) (ran : Bool) (tr : Track) : (confStep c ran tr).ptarget = tr.ptarget := rfl
@[simp] theorem confStep_phitarget (c : Cfg) (ran : Bool) (tr : Track) : (confStep c ran tr).phitarget = tr.phitarget := rfl
@[simp] theorem confStep_selscore (c : Cfg) (ran : Bool) (tr : Track) : (confStep c ran tr).selscore = tr.selscore := rfl
@[simp] theorem confStep_prevphi (c : Cfg) (ran : Bool) (tr : Track) : (confStep c ran tr).prevphi = tr.prevphi := rfl
@[simp] theorem confStep_prevphiV (c : Cfg) (ran : Bool) (tr : Track) : (confStep c ran tr).prevphiV = tr.prevphiV := rfl
@[simp] theorem confStep_heavyCtr (c : Cfg) (ran : Bool) (tr : Track) : (confStep c ran tr).heavyCtr = tr.heavyCtr := rfl
@[simp] theorem confStep_period (c : Cfg) (ran : Bool) (tr : Track) : (confStep c ran tr).period = tr.period := rfl
@[simp] theorem confStep_phase (c : Cfg) (ran : Bool) (tr : Track) : (confStep c ran tr).phase = tr.phase := rfl
@[simp] theorem confStep_periodSet (c : Cfg) (ran : Bool) (tr : Track) : (confStep c ran tr).periodSet = tr.periodSet := rfl
@[simp] theorem confStep_novEnergy (c : Cfg) (ran : Bool) (tr : Track) : (confStep c ran tr).novEnergy = tr.novEnergy := rfl
@[simp] theorem confStep_silent (c : Cfg) (ran : Bool) (tr : Track) : (confStep c ran tr).silent = tr.silent := rfl
@[simp] theorem confStep_silLevel (c : Cfg) (ran : Bool) (tr : Track) : (confStep c ran tr).silLevel = tr.silLevel := rfl

/-! ### `pllStep`, `heavyUpdate` and `heavyStep` -/

@[simp] theorem pllStep_tmix (c : Cfg) (ran : Bool) (tr : Track) : (pllStep c ran tr).1.tmix = tr.tmix := by
  unfold pllStep; split_ifs <;> rfl
@[simp] theorem pllStep_tmh (c : Cfg) (ran : Bool) (tr : Track) : (pllStep c ran tr).1.tmh = tr.tmh := by
  unfold pllStep; split_ifs <;> rfl
@[simp] theorem pllStep_sel (c : Cfg) (ran : Bool) (tr : Track) : (pllStep c ran tr).1.sel = tr.sel := by
  unfold pllStep; split_ifs <;> rfl
@[simp] theorem pllStep_hold (c : Cfg) (ran : Bool) (tr : Track) : (pllStep c ran tr).1.hold = tr.hold := by
  unfold pllStep; split_ifs <;> rfl
@[simp] theorem pllStep_havePeak (c : Cfg) (ran : Bool) (tr : Track) : (pllStep c ran tr).1.havePeak = tr.havePeak := by
  unfold pllStep; split_ifs <;> rfl
@[simp] theorem pllStep_ptarget (c : Cfg) (ran : Bool) (tr : Track) : (pllStep c ran tr).1.ptarget = tr.ptarget := by
  unfold pllStep; split_ifs <;> rfl
@[simp] theorem pllStep_phitarget (c : Cfg) (ran : Bool) (tr : Track) : (pllStep c ran tr).1.phitarget = tr.phitarget := by
  unfold pllStep; split_ifs <;> rfl
@[simp] theorem pllStep_selscore (c : Cfg) (ran : Bool) (tr : Track) : (pllStep c ran tr).1.selscore = tr.selscore := by
  unfold pllStep; split_ifs <;> rfl
@[simp] theorem pllStep_prevphi (c : Cfg) (ran : Bool) (tr : Track) : (pllStep c ran tr).1.prevphi = tr.prevphi := by
  unfold pllStep; split_ifs <;> rfl
@[simp] theorem pllStep_prevphiV (c : Cfg) (ran : Bool) (tr : Track) : (pllStep c ran tr).1.prevphiV = tr.prevphiV := by
  unfold pllStep; split_ifs <;> rfl
@[simp] theorem pllStep_heavyCtr (c : Cfg) (ran : Bool) (tr : Track) : (pllStep c ran tr).1.heavyCtr = tr.heavyCtr := by
  unfold pllStep; split_ifs <;> rfl
@[simp] theorem pllStep_conf (c : Cfg) (ran : Bool) (tr : Track) : (pllStep c ran tr).1.conf = tr.conf := by
  unfold pllStep; split_ifs <;> rfl
@[simp] theorem pllStep_confOn (c : Cfg) (ran : Bool) (tr : Track) : (pllStep c ran tr).1.confOn = tr.confOn := by
  unfold pllStep; split_ifs <;> rfl
@[simp] theorem pllStep_novEnergy (c : Cfg) (ran : Bool) (tr : Track) : (pllStep c ran tr).1.novEnergy = tr.novEnergy := by
  unfold pllStep; split_ifs <;> rfl
@[simp] theorem pllStep_silent (c : Cfg) (ran : Bool) (tr : Track) : (pllStep c ran tr).1.silent = tr.silent := by
  unfold pllStep; split_ifs <;> rfl
@[simp] theorem pllStep_silLevel (c : Cfg) (ran : Bool) (tr : Track) : (pllStep c ran tr).1.silLevel = tr.silLevel := by
  unfold pllStep; split_ifs <;> rfl
@[simp] theorem heavyUpdate_hold (c : Cfg) (f : Front) (tr : Track) : (heavyUpdate c f tr).hold = tr.hold := by
  unfold heavyUpdate; dsimp only; split <;> rfl
@[simp] theorem heavyUpdate_heavyCtr (c : Cfg) (f : Front) (tr : Track) : (heavyUpdate c f tr).heavyCtr = tr.heavyCtr := by
  unfold heavyUpdate; dsimp only; split <;> rfl
@[simp] theorem heavyUpdate_period (c : Cfg) (f : Front) (tr : Track) : (heavyUpdate c f tr).period = tr.period := by
  unfold heavyUpdate; dsimp only; split <;> rfl
@[simp] theorem heavyUpdate_phase (c : Cfg) (f : Front) (tr : Track) : (heavyUpdate c f tr).phase = tr.phase := by
  unfold heavyUpdate; dsimp only; split <;> rfl
@[simp] theorem heavyUpdate_periodSet (c : Cfg) (f : Front) (tr : Track) : (heavyUpdate c f tr).periodSet = tr.periodSet := by
  unfold heavyUpdate; dsimp only; split <;> rfl
@[simp] theorem heavyUpdate_conf (c : Cfg) (f : Front) (tr : Track) : (heavyUpdate c f tr).conf = tr.conf := by
  unfold heavyUpdate; dsimp only; split <;> rfl
@[simp] theorem heavyUpdate_confOn (c : Cfg) (f : Front) (tr : Track) : (heavyUpdate c f tr).confOn = tr.confOn := by
  unfold heavyUpdate; dsimp only; split <;> rfl
@[simp] theorem heavyUpdate_novEnergy (c : Cfg) (f : Front) (tr : Track) : (heavyUpdate c f tr).novEnergy = tr.novEnergy := by
  unfold heavyUpdate; dsimp only; split <;> rfl
@[simp] theorem heavyUpdate_silent (c : Cfg) (f : Front) (tr : Track) : (heavyUpdate c f tr).silent = tr.silent := by
  unfold heavyUpdate; dsimp only; split <;> rfl
@[simp] theorem heavyUpdate_silLevel (c : Cfg) (f : Front) (tr : Track) : (heavyUpdate c f tr).silLevel = tr.silLevel := by
  unfold heavyUpdate; dsimp only; split <;> rfl
@[simp] theorem heavyUpdate_tmix (c : Cfg) (f : Front) (tr : Track) :
    (heavyUpdate c f tr).tmix = (updateTempograms c f tr).tmix := by
  unfold heavyUpdate; dsimp only; split <;> rfl
@[simp] theorem heavyUpdate_tmh (c : Cfg) (f : Front) (tr : Track) :
    (heavyUpdate c f tr).tmh = (updateTempograms c f tr).tmh := by
  unfold heavyUpdate; dsimp only; split <;> rfl
@[simp] theorem heavyStep_hold (c : Cfg) (f : Front) (nv : Novelty) (tr : Track) : (heavyStep c f nv tr).hold = tr.hold := by
  unfold heavyStep; dsimp only; split_ifs <;> simp
@[simp] theorem heavyStep_period (c : Cfg) (f : Front) (nv : Novelty) (tr : Track) : (heavyStep c f nv tr).period = tr.period := by
  unfold heavyStep; dsimp only; split_ifs <;> simp
@[simp] theorem heavyStep_phase (c : Cfg) (f : Front) (nv : Novelty) (tr : Track) : (heavyStep c f nv tr).phase = tr.phase := by
  unfold heavyStep; dsimp only; split_ifs <;> simp
@[simp] theorem heavyStep_periodSet (c : Cfg) (f : Front) (nv : Novelty) (tr : Track) : (heavyStep c f nv tr).periodSet = tr.periodSet := by
  unfold heavyStep; dsimp only; split_ifs <;> simp
@[simp] theorem heavyStep_conf (c : Cfg) (f : Front) (nv : Novelty) (tr : Track) : (heavyStep c f nv tr).conf = tr.conf := by
  unfold heavyStep; dsimp only; split_ifs <;> simp
@[simp] theorem heavyStep_confOn (c : Cfg) (f : Front) (nv : Novelty) (tr : Track) : (heavyStep c f nv tr).confOn = tr.confOn := by
  unfold heavyStep; dsimp only; split_ifs <;> simp
@[simp] theorem heavyStep_novEnergy (c : Cfg) (f : Front) (nv : Novelty) (tr : Track) : (heavyStep c f nv tr).novEnergy = tr.novEnergy := by
  unfold heavyStep; dsimp only; split_ifs <;> simp
@[simp] theorem heavyStep_silent (c : Cfg) (f : Front) (nv : Novelty) (tr : Track) : (heavyStep c f nv tr).silent = tr.silent := by
  unfold heavyStep; dsimp only; split_ifs <;> simp
@[simp] theorem heavyStep_silLevel (c : Cfg) (f : Front) (nv : Novelty) (tr : Track) : (heavyStep c f nv tr).silLevel = tr.silLevel := by
  unfold heavyStep; dsimp only; split_ifs <;> simp
@[simp] theorem heavyStep_tmix (c : Cfg) (f : Front) (nv : Novelty) (tr : Track) :
    (heavyStep c f nv tr).tmix = if heavyGate c f nv tr then (heavyUpdate c f tr).tmix else tr.tmix := by
  unfold heavyStep; dsimp only; split_ifs <;> rfl
@[simp] theorem heavyStep_tmh (c : Cfg) (f : Front) (nv : Novelty) (tr : Track) :
    (heavyStep c f nv tr).tmh = if heavyGate c f nv tr then (heavyUpdate c f tr).tmh else tr.tmh := by
  unfold heavyStep; dsimp only; split_ifs <;> rfl
@[simp] theorem heavyStep_sel (c : Cfg) (f : Front) (nv : Novelty) (tr : Track) :
    (heavyStep c f nv tr).sel = if heavyGate c f nv tr then (heavyUpdate c f tr).sel else tr.sel := by
  unfold heavyStep; dsimp only; split_ifs <;> rfl
@[simp] theorem heavyStep_havePeak (c : Cfg) (f : Front) (nv : Novelty) (tr : Track) :
    (heavyStep c f nv tr).havePeak = if heavyGate c f nv tr then (heavyUpdate c f tr).havePeak else tr.havePeak := by
  unfold heavyStep; dsimp only; split_ifs <;> rfl
@[simp] theorem heavyStep_ptarget (c : Cfg) (f : Front) (nv : Novelty) (tr : Track) :
    (heavyStep c f nv tr).ptarget = if heavyGate c f nv tr then (heavyUpdate c f tr).ptarget else tr.ptarget := by
  unfold heavyStep; dsimp only; split_ifs <;> rfl
@[simp] theorem heavyStep_phitarget (c : Cfg) (f : Front) (nv : Novelty) (tr : Track) :
    (heavyStep c f nv tr).phitarget = if heavyGate c f nv tr then (heavyUpdate c f tr).phitarget else tr.phitarget := by
  unfold heavyStep; dsimp only; split_ifs <;> rfl
@[simp] theorem heavyStep_selscore (c : Cfg) (f : Front) (nv : Novelty) (tr : Track) :
    (heavyStep c f nv tr).selscore = if heavyGate c f nv tr then (heavyUpdate c f tr).selscore else tr.selscore := by
  unfold heavyStep; dsimp only; split_ifs <;> rfl
@[simp] theorem heavyStep_prevphi (c : Cfg) (f : Front) (nv : Novelty) (tr : Track) :
    (heavyStep c f nv tr).prevphi = if heavyGate c f nv tr then (heavyUpdate c f tr).prevphi else tr.prevphi := by
  unfold heavyStep; dsimp only; split_ifs <;> rfl
@[simp] theorem heavyStep_prevphiV (c : Cfg) (f : Front) (nv : Novelty) (tr : Track) :
    (heavyStep c f nv tr).prevphiV = if heavyGate c f nv tr then (heavyUpdate c f tr).prevphiV else tr.prevphiV := by
  unfold heavyStep; dsimp only; split_ifs <;> rfl

/-! ### What the whole stage leaves -/

/-- Whether the heavy update ran at a tick depends on the front end and the counter alone (R272). -/
@[simp] theorem heavyGate_silenceStep (c : Cfg) (f : Front) (nv nv' : Novelty) (tr : Track) :
    heavyGate c f nv (silenceStep c nv' tr) = heavyGate c f nv tr := rfl

@[simp] theorem trackStage_tmix (c : Cfg) (f : Front) (nv : Novelty) (tr : Track) :
    (trackStage c f nv tr).1.tmix =
      if heavyGate c f nv tr then (heavyUpdate c f (silenceStep c nv tr)).tmix else tr.tmix := by
  unfold trackStage; dsimp only; rw [confStep_tmix, pllStep_tmix, holdStep_tmix, heavyStep_tmix]; rfl
@[simp] theorem trackStage_tmh (c : Cfg) (f : Front) (nv : Novelty) (tr : Track) :
    (trackStage c f nv tr).1.tmh =
      if heavyGate c f nv tr then (heavyUpdate c f (silenceStep c nv tr)).tmh else tr.tmh := by
  unfold trackStage; dsimp only; rw [confStep_tmh, pllStep_tmh, holdStep_tmh, heavyStep_tmh]; rfl
@[simp] theorem trackStage_sel (c : Cfg) (f : Front) (nv : Novelty) (tr : Track) :
    (trackStage c f nv tr).1.sel =
      if heavyGate c f nv tr then (heavyUpdate c f (silenceStep c nv tr)).sel else tr.sel := by
  unfold trackStage; dsimp only; rw [confStep_sel, pllStep_sel, holdStep_sel, heavyStep_sel]; rfl
@[simp] theorem trackStage_havePeak (c : Cfg) (f : Front) (nv : Novelty) (tr : Track) :
    (trackStage c f nv tr).1.havePeak =
      if heavyGate c f nv tr then (heavyUpdate c f (silenceStep c nv tr)).havePeak else tr.havePeak := by
  unfold trackStage; dsimp only; rw [confStep_havePeak, pllStep_havePeak, holdStep_havePeak, heavyStep_havePeak]; rfl
@[simp] theorem trackStage_ptarget (c : Cfg) (f : Front) (nv : Novelty) (tr : Track) :
    (trackStage c f nv tr).1.ptarget =
      if heavyGate c f nv tr then (heavyUpdate c f (silenceStep c nv tr)).ptarget else tr.ptarget := by
  unfold trackStage; dsimp only; rw [confStep_ptarget, pllStep_ptarget, holdStep_ptarget, heavyStep_ptarget]; rfl
@[simp] theorem trackStage_phitarget (c : Cfg) (f : Front) (nv : Novelty) (tr : Track) :
    (trackStage c f nv tr).1.phitarget =
      if heavyGate c f nv tr then (heavyUpdate c f (silenceStep c nv tr)).phitarget else tr.phitarget := by
  unfold trackStage; dsimp only; rw [confStep_phitarget, pllStep_phitarget, holdStep_phitarget, heavyStep_phitarget]; rfl
@[simp] theorem trackStage_selscore (c : Cfg) (f : Front) (nv : Novelty) (tr : Track) :
    (trackStage c f nv tr).1.selscore =
      if heavyGate c f nv tr then (heavyUpdate c f (silenceStep c nv tr)).selscore else tr.selscore := by
  unfold trackStage; dsimp only; rw [confStep_selscore, pllStep_selscore, holdStep_selscore, heavyStep_selscore]; rfl
@[simp] theorem trackStage_prevphi (c : Cfg) (f : Front) (nv : Novelty) (tr : Track) :
    (trackStage c f nv tr).1.prevphi =
      if heavyGate c f nv tr then (heavyUpdate c f (silenceStep c nv tr)).prevphi else tr.prevphi := by
  unfold trackStage; dsimp only; rw [confStep_prevphi, pllStep_prevphi, holdStep_prevphi, heavyStep_prevphi]; rfl
@[simp] theorem trackStage_prevphiV (c : Cfg) (f : Front) (nv : Novelty) (tr : Track) :
    (trackStage c f nv tr).1.prevphiV =
      if heavyGate c f nv tr then (heavyUpdate c f (silenceStep c nv tr)).prevphiV else tr.prevphiV := by
  unfold trackStage; dsimp only; rw [confStep_prevphiV, pllStep_prevphiV, holdStep_prevphiV, heavyStep_prevphiV]; rfl
@[simp] theorem trackStage_novEnergy (c : Cfg) (f : Front) (nv : Novelty) (tr : Track) :
    (trackStage c f nv tr).1.novEnergy = (silenceStep c nv tr).novEnergy := by
  unfold trackStage; simp
@[simp] theorem trackStage_silent (c : Cfg) (f : Front) (nv : Novelty) (tr : Track) :
    (trackStage c f nv tr).1.silent = (silenceStep c nv tr).silent := by
  unfold trackStage; simp
@[simp] theorem trackStage_silLevel (c : Cfg) (f : Front) (nv : Novelty) (tr : Track) :
    (trackStage c f nv tr).1.silLevel = (silenceStep c nv tr).silLevel := by
  unfold trackStage; simp

end Sys2Proof.Machine
end

