-- ==== Sys2Proof/Laws/Tick.lean ====
section
/-! SUPPORT. What one tick writes, said once, and what each stage hands on where its gate is open or closed. -/

namespace Sys2Proof.Machine

/-! ### The tick -/

/-- The guard event of a wrong-length chunk is the only thing besides the stages' values that a tick writes, and the
stages do not see it (R170). -/
theorem runTick_eq (c : Cfg) (s : State) (ts : Word) (samples : List Half) :
    s.runTick c ts samples =
      { s.withTick c ts (tickValues c s samples) with
        guard := if samples.length = c.n then s.guard else s.guardEvent.guard } := by
  unfold State.runTick chunkStatus
  generalize tickValues c s samples = v
  by_cases h : samples.length = c.n
  · simp only [h, if_true, State.withTick]
  · simp only [h, if_false, reduceCtorEq, State.withTick]
    rfl

/-- Everything a tick on port P does before its response. -/
theorem ticks_eq {s t : State} {ts : Word} {samples : List Half} (h : ticks s ts samples t) :
    t = ((s.runTick cfg ts samples).publish).raise (chunkStatus cfg samples) := by
  obtain ⟨hc, h⟩ := h
  simp only [exec, execProcessChunk, processChunkWith] at h
  rw [onControl_eq] at h
  simp only [hc, Port.isControl, if_true] at h
  injection h with h
  exact h.symm

/-- A tick can always be run from port P. -/
theorem ticks_next {s : State} (hc : s.cur = .control) (ts : Word) (samples : List Half) :
    ticks s ts samples (((s.runTick cfg ts samples).publish).raise (chunkStatus cfg samples)) := by
  refine ⟨hc, ?_⟩
  simp only [exec, execProcessChunk, processChunkWith]
  rw [onControl_eq]
  simp only [hc, Port.isControl, if_true]

/-- The producer state a tick leaves, field by field, from the values of its stages (R331). -/
theorem ticks_fields {s t : State} {ts : Word} {samples : List Half} (h : ticks s ts samples t) :
    t.tun = s.tun ∧ t.tick = s.tick + 1
      ∧ t.guard = (if samples.length = cfg.n then s.guard else s.guardEvent.guard)
      ∧ t.post = (tickValues cfg s samples).post ∧ t.rawprev = (tickValues cfg s samples).raw.map u32
      ∧ t.front = (tickValues cfg s samples).front ∧ t.track = (tickValues cfg s samples).track
      ∧ t.frame = tickFrame cfg s ts (tickValues cfg s samples)
      ∧ t.readyLast = (tickValues cfg s samples).out.ready ∧ t.cur = s.cur ∧ t.turns = s.turns := by
  have ht := ticks_eq h
  rw [runTick_eq] at ht
  unfold State.publish at ht
  rw [State.writeSequence_eq] at ht
  generalize tickValues cfg s samples = v at ht ⊢
  subst ht
  simp only [State.raise, State.respond, State.respondOn, State.modPort, State.withTick, and_self]

/-! ### The gates of the tempo stages -/

/-- The spectrum gate is open exactly where the window is full once the chunk is in (R241). -/
theorem gateOpen_iff (f : Front) : gateOpen cfg f = true ↔ 256 ≤ f.tfill.toNat + 128 := by
  have hn : (cfg.n : Int) = 128 := rfl
  have ht : (cfg.nt : Int) = 256 := rfl
  simp only [gateOpen, uval, hn, ht, beq_iff_eq]
  omega

/-- A tick with a closed gate, or with no previous spectrum, makes no novelty and pushes nothing (R241, R242). -/
theorem frontStage_no_novelty (x : List Int) (f : Front) (h : ¬ (256 ≤ f.tfill.toNat + 128 ∧ f.havePrev = true)) :
    (frontStage cfg x f).2 = noNovelty ∧ (frontStage cfg x f).1.med = f.med
      ∧ (frontStage cfg x f).1.hmix = f.hmix ∧ (frontStage cfg x f).1.hlow = f.hlow
      ∧ (frontStage cfg x f).1.hmh = f.hmh := by
  unfold frontStage
  by_cases hg : gateOpen cfg f = true
  · have hp : f.havePrev = false := by
      have := (gateOpen_iff f).1 hg
      cases hb : f.havePrev
      · rfl
      · exact absurd ⟨this, hb⟩ h
    simp only [hg, if_true, hp, Bool.false_eq_true, if_false]
    simp [keepSpectrum, ingest]
  · simp only [hg, Bool.false_eq_true, if_false]
    simp [ingest]

/-- A tick with an open gate and a previous spectrum makes a novelty and pushes it (R242, R250). -/
theorem frontStage_novelty (x : List Int) (f : Front) (h1 : 256 ≤ f.tfill.toNat + 128) (h2 : f.havePrev = true) :
    frontStage cfg x f =
      (let f1 := ingest cfg x f
       let m := spectrum cfg (f1.tbuf.map BitVec.toInt)
       let r := onsetStage cfg m f1
       (keepSpectrum m r.1, r.2)) := by
  unfold frontStage
  simp only [(gateOpen_iff f).2 h1, if_true, h2]

/-- A window of zeros has a spectrum of zeros (R245). -/
theorem spectrum_zero : spectrum cfg (List.replicate 256 0) = List.replicate 127 0 := by
  have hw : windowed (List.replicate 256 0) cfg.wt = List.replicate 256 0 := by decide +kernel
  have hs : ∀ f : Nat → Int, windowSum (List.replicate 256 0) f = 0 := by
    intro f
    unfold windowSum
    apply List.sum_eq_zero
    intro y hy
    obtain ⟨p, hp, rfl⟩ := List.mem_map.1 hy
    have h0 : p.1 = 0 := by
      have hm := List.fst_mem_of_mem_zipIdx hp
      exact List.eq_of_mem_replicate hm
    rw [h0]
    simp
  have hb : ∀ j, spectrumBin cfg (List.replicate 256 0) j = 0 := by
    intro j
    simp only [spectrumBin, hs]
    decide +kernel
  unfold spectrum
  rw [hw]
  simp only [hb]
  decide +kernel

/-! ### The tempo tracker -/

/-- A heavy update has a peak exactly where the updated mix tempogram has one (R275, R285, R288). -/
theorem heavyUpdate_havePeak (f : Front) (tr : Track) :
    (heavyUpdate cfg f tr).havePeak = !(peaks cfg (uvals (updateTempograms cfg f tr).tmix)).isEmpty := by
  unfold heavyUpdate
  cases h : peaks cfg (uvals (updateTempograms cfg f tr).tmix) with
  | nil => simp [h, argmaxFirst]
  | cons a rest => simp [h, argmaxFirst, selectLane]

/-- The tempogram of a stream with no energy decays towards 0 (R273). -/
theorem tempogram_no_energy {h : List Int} (hz : zeroLag h = 0) (t : List Int) :
    tempogram cfg h t = (lags cfg).map fun l => ema (tgAt cfg t l) 0 cfg.alphaTg := by
  simp only [tempogram, autocorr, hz, if_true]

end Sys2Proof.Machine
end

