-- ==== Sys2Proof/Tests/Slice0.lean ====
section
/-! SUPPORT. Tests: words and values the spec gives, and small states that meet the hypotheses of each statement of
Certificates/Slice0/Obligations.lean. -/

namespace Sys2Proof.Machine

-- One theorem after the other: each thread reserves a large stack.
set_option Elab.async false

/-! ### Helpers -/

/-- The words the control port has sent after a step, if there is a next state. -/
def sent (o : Host.Outcome State Fault Refusal) : Option (List Word) :=
  match o with
  | .next t => some t.ctl.resp
  | .fault _ => none
  | .refused _ => none

/-- A value of the state after a step, if there is one. -/
def valueAfter {α : Type} (f : State → α) (o : Host.Outcome State Fault Refusal) : Option α :=
  match o with
  | .next t => some (f t)
  | .fault _ => none
  | .refused _ => none

/-- Reset with these words on port P's stream. -/
def sending (ws : List Word) : State := { State.reset with ctl := { PortState.idle with cmds := ws } }

/-- A small state with one publication: epoch 1, the frame zero but for it. -/
def published : State :=
  { State.reset with
    tick := 1, frame := { Frame.zero cfg with epoch := 1 }, bus := { slot := [(0, 1)], epoch := 1, wseq := 2 } }

/-! ### Well-formed commands: each check refuses an ill-formed term -/

theorem wellFormed_replicate (n : Nat) :
    (Instr.processChunk 0 (List.replicate n 0)).wellFormed = decide (n < 65536) := by simp [Instr.wellFormed]

theorem test_wellFormed_refuses_sample_count :
    (Instr.processChunk 0 (List.replicate 65536 0)).wellFormed = false := by rw [wellFormed_replicate]; decide

theorem test_wellFormed_refuses_set_id : (Instr.setTunable 5 0).wellFormed = false := by decide

theorem test_wellFormed_refuses_get_id : (Instr.getTunable 5).wellFormed = false := by decide

theorem test_wellFormed_refuses_status_index : (Instr.getStatus 10).wellFormed = false := by decide

theorem test_wellFormed_admits_bounds :
    (Instr.processChunk 0 (List.replicate 65535 0)).wellFormed = true ∧ (Instr.setTunable 4 0).wellFormed = true
      ∧ (Instr.getTunable 4).wellFormed = true ∧ (Instr.getStatus 9).wellFormed = true := by
  rw [wellFormed_replicate]
  decide

/-! ### Decoding: words written out bit by bit from R111 and R112 (R126, V-30-1, V-30-2) -/

theorem test_decode_nop : decode true [0b00000000000000000000000000000000] = .ok (.nop, []) := by decide

theorem test_decode_softReset : decode true [0b00000001000000000000000000000000] = .ok (.softReset, []) := by decide

theorem test_decode_processChunk :
    decode true [0b00010000000000000000000000000011, 7, 0xFFFF0001, 0xABCD0002, 5]
      = .ok (.processChunk 7 [1, -1, 2], [5]) := by decide +kernel

theorem test_decode_setTunable :
    decode true [0b00100000000000110000000000000000, 0x8000] = .ok (.setTunable 3 32768, []) := by decide +kernel

theorem test_decode_getTunable :
    decode true [0b00100001000000100000000000000000] = .ok (.getTunable 2, []) := by decide +kernel

theorem test_decode_getStatus :
    decode true [0b00110000000010010000000000000000] = .ok (.getStatus 9, []) := by decide +kernel

theorem test_decode_snapshot :
    decode false [0b01000000000000000000000000000011] = .ok (.snapshot 3, []) := by decide +kernel

theorem test_decode_getEpoch :
    decode false [0b01000001000000000000000000000000] = .ok (.getEpoch, []) := by decide +kernel

theorem test_decode_illegal :
    decode true [0x41000001] = .error (.illegal .fields) ∧ decode true [0x01000001] = .error (.illegal .fields)
      ∧ decode true [0x20050000, 7] = .error (.illegal .selector)
      ∧ decode true [0x300A0000] = .error (.illegal .selector)
      ∧ decode true [0x02000000] = .error (.illegal .opcode)
      ∧ decode false [0x10000002, 0, 0] = .error (.illegal .port)
      ∧ decode true [0x10000002, 0] = .error .incomplete := by decide +kernel

theorem test_decode_bytes :
    decodeBytes true [0x00, 0x00, 0x02, 0x30] = .ok (.getStatus 2, [])
      ∧ decodeBytes true [0x00, 0x00, 0x02] = .error .partialWord := by decide +kernel

theorem test_decodeTableWord :
    decodeTableWord 32 0x30020000 = some (.getStatus 2) ∧ decodeTableWord 32 0x20030000 = some (.setTunable 3 0)
      ∧ decodeTableWord 32 0x00010000 = none := by decide +kernel

/-- No word matches two rows of the opcode table. -/
theorem test_opcodeTable_disjoint :
    opcodeTable.Pairwise fun a b => (a.matchBits ^^^ b.matchBits) &&& a.mask &&& b.mask ≠ 0 := by decide +kernel

theorem test_assemble :
    assemble "chunkz 9".toList = some (encode (.processChunk 9 (List.replicate 128 0)))
      ∧ assemble "gett PP_RELEASE_ALPHA".toList = some [0x21020000] ∧ assemble "ready?".toList = some [0x30020000]
      ∧ assemble "snapmax".toList = some [0x4000FFFF] ∧ assemble ".word 0x21050000".toList = some [0x21050000] := by
  decide +kernel

/-! ### The configuration: tables and derived constants (R7, R174, R175, R244, R271) -/

theorem test_windows_from_cosine :
    cfg.w128 = (List.range 128).map (fun n => (32767 - at0 cfg.cos (2 * n)) / 2)
      ∧ cfg.wt = (List.range 256).map (fun n => (32767 - at0 cfg.cos n) / 2) := by decide +kernel

theorem test_derived_constants :
    wSum cfg = 2097045 ∧ wtSum cfg = 4194103 ∧ lMin cfg = 42 ∧ lMax cfg = 93 ∧ slotWords cfg = 219
      ∧ frameBytes cfg = 876 ∧ cfg.mixw.sum = 65536 ∧ cfgValid cfg = true := by decide +kernel

theorem test_cosine_symmetry :
    (List.range 256).all (fun m => at0 cfg.cos m == at0 cfg.cos ((256 - m) % 256)) = true
      ∧ cfg.cos.length = 256 ∧ at0 cfg.cos 0 = 32767 ∧ at0 cfg.cos 64 = 0 ∧ at0 cfg.cos 128 = -32768
      ∧ sinAt cfg 64 = 32767 := by decide +kernel

theorem test_table_lengths :
    cfg.coef.length = 64 ∧ cfg.sink.length = 64 ∧ cfg.loud.length = 64 ∧ cfg.pcmap.length = 64
      ∧ cfg.coef.getD 63 0 = -2391 ∧ cfg.sink.getD 63 0 = 32681 ∧ cfg.loud.getD 54 0 = 65536
      ∧ cfg.pcmap.getD 0 0 = 9 := by decide +kernel

theorem test_cfgValid_refuses :
    cfgValid { cfg with nt := 255 } = false ∧ cfgValid { cfg with alphaSil := 0 } = false
      ∧ cfgValid { cfg with confOff := 22938 } = false ∧ cfgValid { cfg with heavyN := 0 } = false := by
  decide +kernel

/-! ### Primitives and stages: the spec's worked values -/

/-- V-00-1. -/
theorem test_primitives :
    asr (-7) 1 = -4 ∧ asr (-98304) 15 = -3 ∧ fdiv (-7) 2 = -4 ∧ cdiv (-7) 2 = -3 ∧ cdiv (-1) 128 = 0
      ∧ tdiv 7 (-2) = -3 ∧ tdiv (-7) 2 = -3 ∧ sat16 40000 = 32767 ∧ sat32 (-2147483653) = -2147483648
      ∧ isqrt 65535 = 255 ∧ isqrt 4294967295 = 65535 ∧ satadd 65000 1000 65536 = 65536 ∧ emod (-1) 256 = 255
      ∧ rlag 4094006 = 62 ∧ rlag (93 * 65536 + 32768) = 94 ∧ rlag (93 * 65536 + 32767) = 93 := by decide +kernel

/-- V-00-2. -/
theorem test_ema :
    ema 0 65535 65536 = 65535 ∧ ema 1 0 1 = 0 ∧ ema 65535 0 1 = 65534 ∧ ema 100 100 5 = 100 ∧ ema 0 1 1 = 1
      ∧ ema 10 0 3277 = 9 ∧ ema 0 65536 6554 = 6554 := by decide +kernel

/-- R171 and R172 examples. -/
theorem test_levels :
    (removeDC cfg (assembleChunk cfg [-1])).take 3 = [0, 1, 1]
      ∧ peakLevel (removeDC cfg (assembleChunk cfg [-32768])) = 65024
      ∧ rmsLevel cfg (removeDC cfg (assembleChunk cfg [-32768])) = 5768
      ∧ peakLevel (removeDC cfg (assembleChunk cfg [5, -3, 2])) = 10 := by decide +kernel

/-- R183, the row of the single full-scale negative sample. -/
theorem test_filterbank :
    (filterbank cfg (removeDC cfg (assembleChunk cfg [-32768]))).take 4 = [597, 566, 516, 478] := by decide +kernel

/-- R208, ticks 1 and 4 of the trace of bin 40. -/
theorem test_postproc :
    loudness 40000 (at0 cfg.loud 40) = 35737
      ∧ binFloor Tunables.reset (at0 cfg.loud 40) 40000 0 = 72
      ∧ binSmooth Tunables.reset (at0 cfg.loud 40) 40000 0 0 = 22468
      ∧ binFloor Tunables.reset (at0 cfg.loud 40) 0 216 = 215
      ∧ binSmooth Tunables.reset (at0 cfg.loud 40) 0 216 39282 = 37317 := by decide +kernel

/-- R204, the corners of the table. -/
theorem test_softKnee :
    softKnee 1 256 = 255 ∧ softKnee 65535 256 = 65280 ∧ softKnee 16384 16384 = 32768 ∧ softKnee 1 262144 = 0
      ∧ softKnee 65535 262144 = 13107 ∧ softKnee 0 16384 = 0 := by decide +kernel

/-- R247 and R249 examples. -/
theorem test_median_and_mix :
    median [5] = 5 ∧ median [5, 1] = 3 ∧ median [5, 1, 9] = 5 ∧ median [3, 3, 8, 1, 7, 2, 6, 4] = 3
      ∧ mixNovelty cfg [100, 200, 300, 400] = { valid := true, mix := 185, low := 100, mh := 900 } := by
  decide +kernel

/-- R298, steps 6, 8 and 11. -/
theorem test_first_heavy_update_values :
    lanePeriod 4098010 2 = 2732006 ∧ laneValid cfg 2732006 = false ∧ laneValid cfg 4098010 = true
      ∧ incumbentScore cfg 513 22584 = 25861 ∧ bpmOf cfg 4098010 = 7860462 ∧ phaseOf 851968 4098010 = 13624
      ∧ ema 0 22584 cfg.alphaConf = 1130 := by decide +kernel

/-- A lane of the score and the period, valid. -/
def laneOf (period score : Int) (fwd : Bool) : Lane :=
  { period := period, valid := true, lag := 60, phiMix := 0, phiMh := 0, score := score, fwd := fwd }

/-- R284: a slower lane needs a margin above 9830, a faster one above 3277 and forward movement. -/
theorem test_arbitration_margins :
    arbitrate cfg 1 0 [laneOf 90 29830 false, laneOf 60 20000 false] = 1
      ∧ arbitrate cfg 1 0 [laneOf 90 29831 false, laneOf 60 20000 false] = 0
      ∧ arbitrate cfg 1 0 [laneOf 30 23278 true, laneOf 60 20000 false] = 0
      ∧ arbitrate cfg 1 0 [laneOf 30 23278 false, laneOf 60 20000 false] = 1
      ∧ arbitrate cfg 1 126 [laneOf 30 23278 true, laneOf 60 20000 false] = 1 := by decide +kernel

/-! ### One step for each command, from reset (V-30-1, R345, R341, R342) -/

theorem test_nop : sent (step (State.reset.withFetchWord 32 0x00000000)) = some [0x00000000] := by decide +kernel

theorem test_softReset :
    valueAfter (fun t => (t.ctl.resp, t.bus.wseq, t.bus.epoch, t.tun.ppKnee))
      (step ({ published with tun := { Tunables.reset with ppKnee := 256 } }.withFetchWord 32 0x01000000))
      = some ([0x00000000], 4, 0, 16384) := by decide +kernel

theorem test_processChunk_full :
    valueAfter (fun t => (t.ctl.resp, t.tick, t.bus.epoch, t.bus.wseq, t.guard, t.bus.slot.readWord 0))
      (step (State.reset.withFetchWord 2112 0x10000080)) = some ([0x00000000], 1, 1, 2, 0, 1) := by decide +kernel

theorem test_processChunk_short :
    valueAfter (fun t => (t.ctl.resp, t.guard, t.bus.slot.readWord 1, t.bus.slot.readWord 2, t.bus.slot.readWord 3))
      (step (sending [0x10000003, 0x00000007, 0xFFFF0001, 0x00000002]))
      = some ([0x01000000], 1, 7, 0xFFFF0001, 0x00000002) := by decide +kernel

/-- A configuration other than `ref1`, with a heavy update every `k` ticks. -/
def heavyEvery (k : Nat) : Cfg := { cfg with heavyN := k }

/-- A block of another configuration runs by the same rules: with `HEAVY_N = 2` the scheduler counter is 1 after a tick
(R7, R272). -/
theorem test_other_configuration_runs : cfgValid (heavyEvery 2) = true
    ∧ valueAfter (fun t => t.track.heavyCtr)
        (execWith (heavyEvery 2) (.processChunk 0 []) (State.resetWith (heavyEvery 2) 1)) = some 1 := by
  decide +kernel

/-- With `HEAVY_N = 0`, which breaks R8, every step is refused. -/
theorem test_bad_configuration_refused (s : State) : stepWith (heavyEvery 0) s = .refused .invalidConfig :=
  stepWith_invalid (by decide +kernel) s

theorem test_setTunable_in_range :
    valueAfter (fun t => (t.ctl.resp, t.tun.ppKnee, t.guard)) (step (sending [0x20030000, 0x8000]))
      = some ([0x00000000], 32768, 0) := by decide +kernel

theorem test_setTunable_clamps :
    valueAfter (fun t => (t.ctl.resp, t.tun.ppKnee, t.guard)) (step (sending [0x20030000, 100]))
      = some ([0x01000000], 256, 1) := by decide +kernel

theorem test_getTunable : sent (step (sending [0x21020000])) = some [0x00000001, 0x00000CCD] := by decide +kernel

theorem test_getStatus_flags : sent (step (sending [0x30020000])) = some [0x00000001, 0x00000114] := by decide +kernel

theorem test_snapshot_no_data : sent (step (sending [0x40000001])) = some [0x02000000] := by decide +kernel

theorem test_snapshot_frame :
    valueAfter (fun t => (t.ctl.resp.take 3, t.ctl.resp.length)) (step (published.withFetchWord 32 0x40000001))
      = some ([0x000000DB, 1, 0], 220) := by decide +kernel

theorem test_getEpoch : sent (step (published.withFetchWord 32 0x41000000)) = some [0x00000001, 1] := by decide +kernel

theorem test_partial_word_refused :
    (match step { State.reset with turns := [.deliverBytes .control [1, 2, 3]] } with
      | .refused r => some r
      | .next _ => none
      | .fault _ => none) = some .partialWord := by decide +kernel

theorem test_absent_port_refused :
    (match step { State.reset with turns := [.run (.reader 0)] } with
      | .refused r => some r
      | .next _ => none
      | .fault _ => none) = some (.noSuchPort (.reader 0)) := by decide +kernel

/-- A slot word that does not exist is a fault, in a state no run reaches. -/
theorem test_slot_address_faults :
    (match step { State.reset with
        turns := [.access .control], ctl := { PortState.idle with busy := some (.clear (.word 219)) } } with
      | .fault r => some r
      | .next _ => none
      | .refused _ => none) = some (.slotAddress 219) := by decide +kernel

/-- V-40-4: after epoch 0xFFFFFFFF comes epoch 1. -/
theorem test_epoch_wrap : nextEpoch 0xFFFFFFFF = 1 ∧ nextEpoch 0 = 1 ∧ nextEpoch 5 = 6 := by decide

/-! ### States that meet the hypotheses of the statements -/

/-- Reset, with the command being run on reader port 1. -/
def onReader : State := { State.reset with cur := .reader 1 }

/-- A state with a full window, a previous spectrum and a history one short of full; the tempograms are flat at `v`. -/
def warm (v : Word) : State :=
  { State.reset with
    front := { Front.reset cfg with
      tfill := 256, havePrev := true, hmix := List.replicate 511 0, hlow := List.replicate 511 0
      hmh := List.replicate 511 0 }
    track := { Track.reset cfg with tmix := List.replicate 52 v, tmh := List.replicate 52 v } }

/-- `warm` with the period locked and the phase at 13 ticks (R298). -/
def locked : State :=
  { warm 1000 with
    track := { (warm 1000).track with
      period := 4098010, phase := 851968, ptarget := 4098010, phitarget := 13, periodSet := true, havePeak := true } }

/-- Every port that reset leaves is idle. -/
theorem reset_port {p : Port} {ps : PortState} (h : State.reset.port? p = some ps) : ps = PortState.idle := by
  cases p with
  | control => exact (Option.some.inj h).symm
  | reader r =>
    cases r with
    | zero => cases h
    | succ r =>
      have hr : (List.replicate Config.readers PortState.idle)[r]? = some ps := h
      exact List.eq_of_mem_replicate (List.mem_of_getElem? hr)

theorem witness_on_control : State.reset.cur = .control ∧ State.reset.bus.slot.wf = true
    ∧ State.reset.ctl.busy = none ∧ State.reset.turns = [] := ⟨rfl, rfl, rfl, rfl⟩

/-- `GetTunableReads` at its last id and the first illegal one. -/
theorem witness_GetTunableReads :
    valueAfter (fun t => t.ctl.resp) (exec (.getTunable 4) State.reset) = some [0x00000001, 131]
      ∧ valueAfter (fun t => t.ctl.resp) (exec (.getTunable 5) State.reset) = some [0x03000000] := by decide +kernel

/-- `GetStatusReads` at its last index and the first illegal one. -/
theorem witness_GetStatusReads :
    valueAfter (fun t => t.ctl.resp) (exec (.getStatus 9) published) = some [0x00000001, 2]
      ∧ valueAfter (fun t => t.ctl.resp) (exec (.getStatus 10) published) = some [0x03000000] := by decide +kernel

/-- `SetTunableClamps` at the bounds of two registers, on either side of them, and at the first illegal id. -/
theorem witness_SetTunableClamps :
    [(0, 0), (0, 1), (4, 65536), (4, 65537), (3, 255), (3, 256), (3, 262144), (3, 262145), (5, 1)].map
        (fun iv : Byte × Word => valueAfter (fun t => (t.tun.get? iv.1.toNat, t.guard, t.ctl.resp))
          (exec (.setTunable iv.1 iv.2) State.reset))
      = [some (some 1, 1, [0x01000000]), some (some 1, 0, [0x00000000]), some (some 65536, 0, [0x00000000]),
         some (some 65536, 1, [0x01000000]), some (some 256, 1, [0x01000000]), some (some 256, 0, [0x00000000]),
         some (some 262144, 0, [0x00000000]), some (some 262144, 1, [0x01000000]), some (none, 0, [0x03000000])] := by
  decide +kernel

/-- Both clauses of `SnapshotAnswers`: an attempt that succeeds, and each way to have none. -/
theorem witness_SnapshotAnswers :
    ((1 : Half) ≠ 0 ∧ published.bus.wseq.toNat % 2 = 0 ∧ published.bus.epoch ≠ 0
        ∧ published.bus.slot.readWord 0 = published.bus.epoch)
      ∧ ¬ ((0 : Half) ≠ 0) ∧ ¬ (State.reset.bus.epoch ≠ 0) := by decide +kernel

theorem witness_GetEpochReads : opcField 0x41000001 = 0x41 ∧ ¬ (selField 0x41000001 = 0 ∧ immField 0x41000001 = 0)
    ∧ opcField 0x41010000 = 0x41 ∧ ¬ (selField 0x41010000 = 0 ∧ immField 0x41010000 = 0) := by decide

theorem witness_ReaderPortRights : onReader.cur = .reader 1 ∧ opcField 0x10000080 ≠ 0x00
    ∧ opcField 0x10000080 ≠ 0x40 ∧ opcField 0x10000080 ≠ 0x41 := by decide

/-- Both clauses of `StepRunsDecodedCommand`, on port P. -/
theorem witness_StepRunsDecodedCommand :
    (sending [0x30020000, 5]).ctl.busy = none
      ∧ decode Port.control.isControl (sending [0x30020000, 5]).ctl.cmds = .ok (.getStatus 2, [5])
      ∧ (sending [0x30020000, 5]).nextPort = some .control ∧ (sending [0x30020000, 5]).turns = []
      ∧ ({ sending [0x30020000, 5] with turns := [.run .control] } : State).turns = .run .control :: [] := by
  decide +kernel

/-- Illegal commands of one, two and three words, on port P and on a reader port. -/
theorem witness_IllegalCommandAnswered :
    ([] : List Word).length + 1 = commandLength 0x00010000
      ∧ accept Port.control.isControl 0x00010000 [] = .error .fields
      ∧ [(7 : Word)].length + 1 = commandLength 0x20050000
      ∧ accept Port.control.isControl 0x20050000 [7] = .error .selector
      ∧ [(0 : Word), 0].length + 1 = commandLength 0x10000002
      ∧ accept (Port.reader 1).isControl 0x10000002 [0, 0] = .error .port
      ∧ onReader.port? (.reader 1) = some PortState.idle := by
  refine ⟨by decide, by decide, by decide, by decide, by decide, by decide, rfl⟩

theorem witness_IdleBlockHoldsState : State.reset.turns = [] ∧
    ∀ p ps, State.reset.port? p = some ps → ps.busy = none ∧ takeCommand ps.cmds = none := by
  refine ⟨rfl, fun p ps h => ?_⟩
  rw [reset_port h]
  exact ⟨rfl, rfl⟩

theorem witness_DeliveredWordsArrive : State.reset.port? .control = some PortState.idle ∧ [(1 : Byte)].length % 4 ≠ 0
    ∧ [(1 : Byte), 2, 3].length % 4 ≠ 0 := ⟨rfl, by decide, by decide⟩

theorem witness_EncodeOfDecode :
    decode true [0x10000003, 7, 0xFFFF0001, 0xABCD0002, 5] = .ok (.processChunk 7 [1, -1, 2], [5])
      ∧ decode true [0x10000000, 7] = .ok (.processChunk 7 [], []) := by decide +kernel

theorem witness_PayloadSamples : ([] : List Word).length = ((0 : Half).toNat + 1) / 2
    ∧ [(1 : Word), 2].length = ((3 : Half).toNat + 1) / 2
    ∧ (List.replicate 32768 (0 : Word)).length = ((65535 : Half).toNat + 1) / 2 := by
  rw [List.length_replicate]
  decide

theorem witness_FrameLayout : (Frame.zero cfg).wave.length = 128 ∧ (Frame.zero cfg).raw.length = 64
    ∧ (Frame.zero cfg).smooth.length = 64 ∧ (Frame.zero cfg).pitch.length = 12 ∧ (Frame.zero cfg).band.length = 4 := by decide +kernel

/-! ### Ticks -/

/-- The state after a tick on port P. -/
@[irreducible] def ticked (s : State) (ts : Word) (samples : List Half) : State :=
  ((s.runTick cfg ts samples).publish).raise (chunkStatus cfg samples)

theorem ticks_ticked {s : State} (hc : s.cur = .control) (ts : Word) (samples : List Half) :
    ticks s ts samples (ticked s ts samples) := by
  unfold ticked
  exact ticks_next hc ts samples

theorem ticked_cur {s : State} (h : s.cur = .control) (ts : Word) (samples : List Half) :
    (ticked s ts samples).cur = .control :=
  (ticks_fields (ticks_ticked h ts samples)).2.2.2.2.2.2.2.2.2.1.trans h

/-- A tick can be run from reset, with a chunk of any length. -/
theorem witness_ticks (ts : Word) (samples : List Half) : ticks State.reset ts samples (ticked State.reset ts samples) :=
  ticks_ticked rfl ts samples

theorem witness_ConstantChunkIsSilent : ∃ t, ticks State.reset 0 (List.replicate 128 (-32768)) t :=
  ⟨_, ticks_ticked rfl _ _⟩

/-- An array of zeros is within every limit. -/
theorem arrayWithin_zeros (n top : Nat) : arrayWithin (List.replicate n 0) n top := by
  refine ⟨List.length_replicate, fun v hv => ?_⟩
  rw [List.eq_of_mem_replicate hv]
  exact Nat.zero_le _

theorem reset_tunables : tunablesLegal Tunables.reset := by
  unfold tunablesLegal inRange
  decide

theorem reset_spectral : tunablesLegal State.reset.tun ∧ spectralInRange State.reset :=
  ⟨reset_tunables, arrayWithin_zeros 64 65535, arrayWithin_zeros 64 65535, arrayWithin_zeros 64 65535⟩

theorem witness_PostProcessor : (∃ t, ticks State.reset 0 [] t) ∧ tunablesLegal State.reset.tun
    ∧ spectralInRange State.reset := ⟨⟨_, ticks_ticked rfl _ _⟩, reset_spectral⟩

/-- A run of ticks from reset on zero chunks. -/
def silentRun : Nat → State
  | 0 => State.reset
  | n + 1 => ticked (silentRun n) 0 (List.replicate 128 0)

theorem silentRun_cur (n : Nat) : (silentRun n).cur = .control := by
  induction n with
  | zero => rfl
  | succ n ih => exact ticked_cur ih 0 _

theorem witness_SilentSteadyState : tunablesLegal (silentRun 0).tun ∧ spectralInRange (silentRun 0)
    ∧ ∀ n, ticks (silentRun n) 0 (List.replicate 128 0) (silentRun (n + 1)) :=
  ⟨reset_spectral.1, reset_spectral.2, fun n => ticks_ticked (silentRun_cur n) _ _⟩

theorem witness_EpochSequence : (silentRun 0).bus.epoch = 0
    ∧ ∀ n, ticks (silentRun n) 0 (List.replicate 128 0) (silentRun (n + 1)) :=
  ⟨rfl, fun n => ticks_ticked (silentRun_cur n) _ _⟩

theorem witness_Summaries : ∃ t u, ticks State.reset 0 [1, 2] t ∧ ticks t 0 [1, 2] u :=
  ⟨_, _, witness_ticks 0 [1, 2], ticks_ticked (ticked_cur rfl 0 [1, 2]) 0 [1, 2]⟩

/-- Both gates of the tempo front end: closed at reset, open with a previous spectrum in `warm`, open with none. -/
theorem witness_WindowAndGate : State.reset.front.tfill.toNat + 128 < 256 ∧ ¬ noveltyMade State.reset
    ∧ noveltyMade (warm 0)
    ∧ 256 ≤ ({ Front.reset cfg with tfill := 128 } : Front).tfill.toNat + 128 := by
  unfold noveltyMade
  decide +kernel

theorem warm_front_shaped (v : Word) : frontShaped (warm v).front := by
  have h : (warm v).front = (warm 0).front := rfl
  rw [h]
  unfold frontShaped
  decide +kernel

theorem witness_SpectrumBins : (∃ t, ticks (warm 0) 0 [] t) ∧ frontShaped (warm 0).front
    ∧ 256 ≤ (warm 0).front.tfill.toNat + 128 := ⟨⟨_, ticks_ticked rfl _ _⟩, warm_front_shaped 0, by decide +kernel⟩

theorem witness_NoveltyPushed : (∃ t, ticks (warm 0) 0 [] t) ∧ frontShaped (warm 0).front ∧ noveltyMade (warm 0)
    ∧ [(5 : Int), 1] ≠ [] ∧ [(5 : Int)] ≠ [] :=
  ⟨⟨_, ticks_ticked rfl _ _⟩, warm_front_shaped 0, witness_WindowAndGate.2.2.1, by decide, by decide⟩

/-- The front end and the novelty after a zero chunk from `warm`. -/
def warmNext : Front × Novelty :=
  let r := onsetStage cfg (List.replicate 127 0) (ingest cfg (List.replicate 128 0) (warm 0).front)
  (keepSpectrum (List.replicate 127 0) r.1, r.2)

/-- The front end after a zero chunk from `warm`. -/
theorem warm_front (v : Word) :
    frontStage cfg (List.replicate 128 0) (warm v).front =
      warmNext := by
  have h : (warm v).front = (warm 0).front := rfl
  have hw : (ingest cfg (List.replicate 128 0) (warm 0).front).tbuf.map BitVec.toInt = List.replicate 256 0 := by
    decide +kernel
  rw [h, frontStage_novelty _ _ (by decide +kernel) rfl]
  simp only [hw, spectrum_zero, warmNext]

theorem zero_chunk : removeDC cfg (assembleChunk cfg []) = List.replicate 128 0 := by decide +kernel

/-- A tick with no samples from a state with the front end of `warm` runs the heavy update; whether it finds a peak is
decided by evaluating the tracker. -/
theorem warm_ticks (s : State) (hc : s.cur = .control) (hf : s.front = (warm 0).front) (hh : s.track.heavyCtr = 0) :
    ticks s 0 [] (ticked s 0 []) ∧ heavyRan s (ticked s 0 []) ∧ (ticked s 0 []).front.hmix.length = 512
      ∧ (ticked s 0 []).track = (trackStage cfg warmNext.1 warmNext.2 s.track).1 := by
  have ht := ticks_ticked hc 0 []
  obtain ⟨-, -, -, -, -, h1, h2, -⟩ := ticks_fields ht
  have hfront : (tickValues cfg s []).front = (frontStage cfg (List.replicate 128 0) (warm 0).front).1 := by
    unfold tickValues
    rw [zero_chunk, hf]
  have htrack : (tickValues cfg s []).track =
      (trackStage cfg (frontStage cfg (List.replicate 128 0) (warm 0).front).1
        (frontStage cfg (List.replicate 128 0) (warm 0).front).2 s.track).1 := by
    unfold tickValues
    rw [zero_chunk, hf]
  have hlen : (ticked s 0 []).front.hmix.length = 512 := by
    rw [h1, hfront, warm_front]
    decide +kernel
  refine ⟨ht, ⟨hlen, ?_, hh⟩, hlen, ?_⟩
  · unfold noveltyMade
    rw [hf]
    exact witness_WindowAndGate.2.2.1
  · rw [h2, htrack, warm_front]

theorem warmNext_values : histFull cfg warmNext.1 = true ∧ warmNext.2.valid = true
    ∧ zeroLag (uvals warmNext.1.hmix) = 0 := by decide +kernel

/-- Whether that tick finds a peak, from tempograms that are flat at `v`. -/
theorem warm_peak (tr : Track) (v : Word) (hm : tr.tmix = List.replicate 52 v) (hh : tr.heavyCtr = 0) :
    (trackStage cfg warmNext.1 warmNext.2 tr).1.havePeak
      = !(peaks cfg (uvals (((lags cfg).map fun l =>
          ema (tgAt cfg (uvals (List.replicate 52 v)) l) 0 cfg.alphaTg).map u32))).isEmpty := by
  have hg : heavyGate cfg warmNext.1 warmNext.2 tr = true := by
    simp only [heavyGate, warmNext_values.1, warmNext_values.2.1, hh, Bool.and_self, BEq.rfl]
  rw [trackStage_havePeak, if_pos hg, heavyUpdate_havePeak]
  simp only [updateTempograms, silenceStep_tmix, hm, tempogram_no_energy warmNext_values.2.2]

/-- A heavy update with a peak. -/
theorem witness_HeavyUpdateSelects : ticks (warm 1000) 0 [] (ticked (warm 1000) 0 [])
    ∧ heavyRan (warm 1000) (ticked (warm 1000) 0 []) ∧ (ticked (warm 1000) 0 []).track.havePeak = true := by
  obtain ⟨h1, h2, -, h3⟩ := warm_ticks (warm 1000) rfl rfl rfl
  refine ⟨h1, h2, ?_⟩
  rw [h3]
  exact (warm_peak (warm 1000).track 1000 rfl rfl).trans (by decide +kernel)

/-- A heavy update without one, and a tick with no heavy update. -/
theorem witness_HeavyScheduler : ticks (warm 0) 0 [] (ticked (warm 0) 0 []) ∧ heavyRan (warm 0) (ticked (warm 0) 0 [])
    ∧ (ticked (warm 0) 0 []).track.havePeak = false
    ∧ ¬ heavyRan State.reset (ticked State.reset 0 []) := by
  obtain ⟨h1, h2, -, h3⟩ := warm_ticks (warm 0) rfl rfl rfl
  refine ⟨h1, h2, ?_, fun h => witness_WindowAndGate.2.1 h.2.1⟩
  rw [h3]
  exact (warm_peak (warm 0).track 0 rfl rfl).trans (by decide +kernel)

theorem witness_TempogramUpdate : (∃ t, ticks (warm 0) 0 [] t ∧ heavyRan (warm 0) t) ∧ frontShaped (warm 0).front :=
  ⟨⟨_, witness_HeavyScheduler.1, witness_HeavyScheduler.2.1⟩, warm_front_shaped 0⟩

/-- A tick with the period locked, ready at its end. -/
theorem witness_TempoOutputs : ticks locked 0 [] (ticked locked 0 []) ∧ periodBounded locked.track
    ∧ readyAt (ticked locked 0 []) ∧ ¬ readyAt (ticked (warm 0) 0 []) := by
  obtain ⟨h1, -, h2, h3⟩ := warm_ticks locked rfl rfl rfl
  refine ⟨h1, ?_, ⟨h2, ?_, ?_⟩, fun h => ?_⟩
  · unfold periodBounded inRange
    decide
  · rw [h3]
    exact (warm_peak locked.track 1000 rfl rfl).trans (by decide +kernel)
  · rw [h3]
    simp only [trackStage, confStep_periodSet]
    rw [show ∀ tr : Track, ∀ ran, tr.periodSet = true → (pllStep cfg ran tr).1.periodSet = true from
      fun tr ran h => by unfold pllStep; simp only [h, if_true]]
    simp only [holdStep_periodSet, heavyStep_periodSet, silenceStep_periodSet, locked]
  · exact Bool.noConfusion (h.2.1.symm.trans witness_HeavyScheduler.2.2.1)

/-- Every clause of `PeriodSlewAndLock`: locked, locking at this tick, and neither. -/
theorem witness_PeriodSlewAndLock : locked.track.periodSet = true ∧ (warm 1000).track.periodSet = false
    ∧ (heavyRan (warm 1000) (ticked (warm 1000) 0 []) ∧ (ticked (warm 1000) 0 []).track.havePeak = true)
    ∧ State.reset.track.periodSet = false
    ∧ ¬ (heavyRan State.reset (ticked State.reset 0 []) ∧ (ticked State.reset 0 []).track.havePeak = true) :=
  ⟨rfl, rfl, witness_HeavyUpdateSelects.2, rfl, fun h => witness_HeavyScheduler.2.2.2 h.1⟩

theorem exists_by_cases (p : Prop) (a b : Int) : ∃ x : Int, (p → x = a) ∧ (¬ p → x = b) := by
  by_cases h : p
  · exact ⟨a, fun _ => rfl, fun n => absurd h n⟩
  · exact ⟨b, fun y => absurd y h, fun _ => rfl⟩

/-- `PhaseAndBeat` with the period set, a phase before the wrap, and a low-band value of either kind. -/
theorem witness_PhaseAndBeat : ticks locked 0 [] (ticked locked 0 []) ∧ periodBounded locked.track
    ∧ locked.track.periodSet = true ∧ (∃ ph, phaseBeforeWrap locked (ticked locked 0 []) ph)
    ∧ noveltyMade locked ∧ ¬ noveltyMade State.reset :=
  ⟨witness_TempoOutputs.1, witness_TempoOutputs.2.1, rfl, exists_by_cases _ _ _, witness_WindowAndGate.2.2.1,
    witness_WindowAndGate.2.1⟩

/-- Every clause of `ConfidenceHysteresis` and `SilenceTracker`. -/
theorem witness_ConfidenceHysteresis : ticks (warm 0) 0 [] (ticked (warm 0) 0 [])
    ∧ heavyRan (warm 0) (ticked (warm 0) 0 []) ∧ ¬ heavyRan State.reset (ticked State.reset 0 [])
    ∧ State.reset.track.confOn = false ∧ ({ Track.reset cfg with confOn := true } : Track).confOn = true :=
  ⟨witness_HeavyScheduler.1, witness_HeavyScheduler.2.1, witness_HeavyScheduler.2.2.2, rfl, rfl⟩

/-! ### The tempo functions on values at the ends of their ranges -/

/-- A tempogram that is 0 but at one lag. -/
def spike (l : Nat) : List Word := (List.replicate 52 (0 : Word)).set (l - 42) 1000

/-- A strongest mid/high peak at each end of the lag range and inside it, and none. -/
theorem witness_BasePeriod :
    (∀ lh ∈ [42, 60, 93], peakOf (fun l => natAt (spike lh) (l - 42)) lh)
      ∧ (∀ lh ∈ [42, 60, 93], ∀ l ∈ List.range 100, peakOf (fun l => natAt (spike lh) (l - 42)) l → l = lh)
      ∧ (∀ l, ¬ peakOf (fun l => natAt (List.replicate 52 0) (l - 42)) l)
      ∧ (at0 [0, 5, 0] 0 - 2 * at0 [0, 5, 0] 1 + at0 [0, 5, 0] 2 < 0) := by
  refine ⟨?_, ?_, fun l h => ?_, by decide⟩
  · unfold peakOf
    decide +kernel
  · unfold peakOf
    decide +kernel
  · have h0 : natAt (List.replicate 52 0) (l - 42) = 0 := by
      unfold natAt
      rw [List.getD_eq_getElem?_getD, List.getElem?_replicate]
      split <;> rfl
    have h1 : 0 < natAt (List.replicate 52 0) (l - 42) := h.2.2.1
    rw [h0] at h1
    exact Nat.lt_irrefl 0 h1

/-- `LaneCandidates` at both ends of the base period's range: every lane of it is valid at one end or the other but the
double one, and each kind of lane, valid and not, occurs. -/
theorem witness_LaneCandidates :
    laneValid cfg (lanePeriod (42 * 65536) 1) = true ∧ laneValid cfg (lanePeriod (93 * 65536) 1) = true
      ∧ laneValid cfg (lanePeriod (42 * 65536) 0) = true ∧ laneValid cfg (lanePeriod (93 * 65536) 0) = false
      ∧ laneValid cfg (lanePeriod (93 * 65536) 2) = true ∧ laneValid cfg (lanePeriod (93 * 65536) 3) = true := by
  decide +kernel

theorem witness_CombAlignment : (List.replicate 512 (0 : Word)).length = 512 ∧ 42 * 65536 ≤ 42 * 65536 ∧ 1 ≤ 1 :=
  ⟨List.length_replicate, Nat.le_refl _, Nat.le_refl _⟩

/-- The three clauses of `Arbitration`: an invalid incumbent, a challenger that qualifies by each rule, and none. -/
theorem witness_Arbitration :
    (laneAt [laneOf 60 5 false] 0).valid = true ∧ (laneAt [laneOf 60 5 false] 1).valid = false
      ∧ 20000 + 9830 < (laneOf 90 29831 false).score ∧ (60 : Int) ≤ (laneOf 90 29831 false).period
      ∧ 20000 + 3277 < (laneOf 30 23278 true).score ∧ ¬ (20000 + 3277 < (laneOf 30 23277 true).score) := by decide

theorem witness_SmoothingReachesTarget : (0 : Int) ≤ 1 ∧ (1 : Int) ≤ 65536 ∧ (1 : Int) ≤ 1 ∧ (65536 - 0 : Int).natAbs ≤ 65536 := by
  decide

/-! ### The invariants and the frame bus -/

theorem zero_frame_in_range : frameInRange { Frame.zero cfg with epoch := 1 } := by
  refine ⟨by decide, Nat.zero_le _, Nat.zero_le _, List.length_replicate, arrayWithin_zeros 64 _, arrayWithin_zeros 64 _,
    arrayWithin_zeros 12 _, arrayWithin_zeros 4 _, Nat.zero_le _, Nat.zero_le _, Nat.zero_le _, Nat.zero_le _,
    Nat.zero_le _, .inl rfl, .inl rfl, rfl, fun _ => ⟨rfl, rfl, rfl⟩, fun h => ?_⟩
  exact absurd h (by decide)

theorem published_words : published.bus.slot.words cfg = 1 :: List.replicate 218 0 := by decide +kernel

theorem published_decodes : decodeFrame cfg (published.bus.slot.words cfg) = { Frame.zero cfg with epoch := 1 } := by
  rw [published_words]
  decide +kernel

/-- The published state is legal, with a control port that is idle or in a SNAPSHOT, and with any moves to come. -/
theorem published_legal (c : PortState) (ts : List Turn)
    (hb : c.busy = none ∨ ∃ l ph s1 out, c.busy = some (.snap l ph s1 out)) :
    stateLegal { published with ctl := c, turns := ts } := by
  have hidle : ∀ ps ∈ published.readers, ps = PortState.idle := fun ps h => List.eq_of_mem_replicate h
  have hslot : slotPublished published := by
    refine .inr ⟨by decide, rfl, ?_⟩
    unfold slotHolds
    decide +kernel
  have hodd : seqOdd published.bus.wseq = false := by decide
  refine ⟨reset_tunables, ⟨arrayWithin_zeros 64 _, arrayWithin_zeros 64 _, arrayWithin_zeros 64 _⟩, ?_, ?_, ?_, ?_, ?_, ?_, ?_⟩
  · show frontShaped (Front.reset cfg)
    unfold frontShaped
    decide +kernel
  · exact ⟨arrayWithin_zeros 52 _, arrayWithin_zeros 52 _, Nat.zero_le _, Nat.zero_le _, Nat.le_refl _⟩
  · refine ⟨fun h => ?_, fun h => ?_⟩
    · rcases h with h | h <;> cases h
    · cases h
  · show laneStateOk (Track.reset cfg)
    unfold laneStateOk
    decide +kernel
  · refine ⟨by show published.bus.slot.wf = true; decide +kernel, ?_, ?_, ?_⟩
    · intro ps hps b hbz
      rw [hidle ps hps] at hbz
      cases hbz
    · show (frameWords published.frame).length = 219
      decide +kernel
    · rcases hb with hb | ⟨l, ph, s1, out, hb⟩ <;> simp only [hb] <;> exact ⟨hodd, hslot⟩
  · intro _ _
    show frameInRange (decodeFrame cfg (published.bus.slot.words cfg))
    rw [published_decodes]
    exact zero_frame_in_range
  · intro ph st h
    have h' : c.busy = some (.publish ph st) := h
    rcases hb with hb | ⟨l, ph', s1, out, hb⟩ <;> rw [hb] at h' <;> cases h'

/-- A legal state that steps: one publication, with NOP on port P's stream. -/
theorem witness_StateLegalKept :
    stateLegal { published with ctl := { PortState.idle with cmds := [0] }, turns := [] }
      ∧ ∃ t, step { published with ctl := { PortState.idle with cmds := [0] }, turns := [] } = .next t := by
  refine ⟨published_legal _ _ (.inl rfl), ?_⟩
  rw [step_eq]
  exact ⟨_, rfl⟩

/-- The published state with port P in a SNAPSHOT of one attempt, `n` of its bus accesses to come. -/
def copying (ph : ReadPhase) (out : List Word) (n : Nat) : State :=
  { published with
    ctl := { PortState.idle with busy := some (.snap 1 ph 2 out) }, turns := List.replicate n (.access .control) }

theorem copying_step {ph ph' : ReadPhase} {out out' : List Word} (n : Nat)
    (h : (copying ph out n).readAccess cfg .control 1 2 out ph = some (copying ph' out' n)) :
    step (copying ph out (n + 1)) = .next (copying ph' out' n) := by
  rw [step_eq]
  have ha : (copying ph out (n + 1)).advance cfg exec = (copying ph out n).busAccess cfg .control (.snap 1 ph 2 out) := rfl
  rw [ha]
  simp only [State.busAccess, h]

theorem copying_word {w : Nat} (hw : w < 219) (out : List Word) (n : Nat) :
    step (copying (.word w) out (n + 1)) =
      .next (copying (if w + 1 < 219 then .word (w + 1) else .seq2) (out ++ [published.bus.slot.readWord w]) n) := by
  apply copying_step
  have hs : w < slotWords cfg := hw
  simp only [State.readAccess, hs, if_true]
  rfl

theorem copying_inCopy {ph : ReadPhase} (h : ph ≠ .seq1) (out : List Word) (n : Nat) :
    inCopy (copying ph out n) .control 1 := ⟨_, ph, 2, out, rfl, rfl, h⟩

/-- The first `w + 1` reads of the attempt. -/
theorem copying_words (w : Nat) (hw : w < 219) :
    AttemptRun .control 1 (w + 1) (copying .seq1 [] 221)
      (copying (.word w) ((List.range w).map published.bus.slot.readWord) (220 - w)) := by
  induction w with
  | zero =>
    refine .first ⟨_, 2, [], rfl, rfl⟩ (copying_step 220 rfl) (copying_inCopy (by decide) _ _)
  | succ w ih =>
    have hn : 220 - w = 220 - (w + 1) + 1 := by omega
    have h := ih (by omega)
    rw [hn] at h
    have hs := copying_word (w := w) (by omega) ((List.range w).map published.bus.slot.readWord) (220 - (w + 1))
    rw [if_pos hw] at hs
    rw [List.range_succ, List.map_append]
    exact .more h hs (copying_inCopy (fun e => ReadPhase.noConfusion e) _ _)

/-- A whole attempt in a legal state, one move short of its end, which is about to succeed. -/
theorem witness_SnapshotNeverMixes :
    stateLegal (copying .seq1 [] 221)
      ∧ AttemptRun .control 1 221 (copying .seq1 [] 221) (copying (.epoch 2) (published.bus.slot.words cfg) 0)
      ∧ attemptOk 2 2 published.bus.epoch (published.bus.slot.words cfg) = true ∧ 221 < 2 ^ 31 := by
  refine ⟨published_legal _ _ (.inr ⟨1, .seq1, 2, [], rfl⟩), ?_, ?_, by decide⟩
  · have h := copying_words 218 (by decide)
    have h1 := copying_word (w := 218) (by decide) ((List.range 218).map published.bus.slot.readWord) 1
    have h2 : AttemptRun .control 1 220 (copying .seq1 [] 221) (copying .seq2 (published.bus.slot.words cfg) 1) := by
      refine .more h ?_ (copying_inCopy (by decide) _ _)
      rw [h1]
      rfl
    exact .more h2 (copying_step 0 rfl) (copying_inCopy (fun e => ReadPhase.noConfusion e) _ _)
  · rw [published_words]
    decide

/-- The whole SNAPSHOT of `SnapshotFramesInRange`. -/
theorem witness_SnapshotFramesInRange : stateLegal { published with ctl := PortState.idle, turns := [] }
    ∧ ∃ t out, exec (.snapshot 1) published = .next t
        ∧ t.port? .control = some { PortState.idle with resp := PortState.idle.resp ++ 0x000000DB :: out } := by
  refine ⟨published_legal _ _ (.inl rfl), _, (published.bus.slot.words cfg), rfl, ?_⟩
  have h : published.attempts cfg (1 : Half).toNat = some (published.bus.slot.words cfg) := by decide +kernel
  have hr := response_frame (data := (published.bus.slot.words cfg)) (by rw [published_words]; rfl)
  rw [h]
  simp only [State.answerSnapshot, State.respond, State.respondOn, hr]
  rfl

/-- A SNAPSHOT at each kind of access, the first and the last word among them. -/
theorem witness_SnapshotEnds : ∀ ph ∈ [ReadPhase.seq1, .word 0, .word 218, .seq2, .epoch 2],
    (copying ph [] 1).turns = [.access .control] ∧ (∀ w, ph = .word w → w < 219)
      ∧ (copying ph [] 1).port? .control = some { PortState.idle with busy := some (.snap 1 ph 2 []) } := by
  intro ph h
  refine ⟨rfl, ?_, rfl⟩
  intro w hw
  subst hw
  simp only [List.mem_cons, ReadPhase.word.injEq, reduceCtorEq, false_or, List.not_mem_nil, or_false] at h
  omega

/-- Moves of others while port P is in a SNAPSHOT: words arriving, a reader's turn, and a hardware reset. -/
theorem witness_SnapshotEnds_others : ∀ m ∈ [Turn.deliver .control [0], .run (.reader 1), .hardReset],
    ¬ (m = .run .control ∨ m = .access .control)
      ∧ ∃ t, step { copying (.word 0) [] 0 with turns := [m] } = .next t := by
  intro m h
  simp only [List.mem_cons, List.not_mem_nil, or_false] at h
  rcases h with rfl | rfl | rfl
  all_goals
    refine ⟨by simp, ?_⟩
    rw [step_eq]
    exact ⟨_, rfl⟩

/-- A writer before its first write: the published state about to publish its second frame. -/
theorem witness_BusConsistentKept_openSeq :
    busConsistent { published with
      frame := { Frame.zero cfg with epoch := 2 }
      ctl := { PortState.idle with busy := some (.publish .openSeq .ok) } } := by
  have hidle : ∀ ps ∈ published.readers, ps = PortState.idle := fun ps h => List.eq_of_mem_replicate h
  refine ⟨by show published.bus.slot.wf = true; decide +kernel, fun ps hps b hb => ?_, ?_, ⟨?_, ?_⟩, ?_⟩
  · rw [hidle ps hps] at hb
    cases hb
  · show (frameWords { Frame.zero cfg with epoch := 2 }).length = 219
    decide +kernel
  · show seqOdd published.bus.wseq = false
    decide
  · show published.bus.slot.readWord 0 = published.bus.epoch
    decide +kernel
  · show (2 : Word) = nextEpoch published.bus.epoch
    decide

/-- Both clauses of `OneAccessAtATime`: port P idle, and a reader port that the block always has. -/
theorem witness_OneAccessAtATime : State.reset.turns = [] ∧ State.reset.cur = .control ∧ State.reset.ctl.busy = none
    ∧ onReader.turns = [] ∧ onReader.port? onReader.cur = some PortState.idle := ⟨rfl, rfl, rfl, rfl, rfl⟩

/-- Moves of a reader and of the producer that are next states. -/
theorem witness_ProducerAndReadersApart :
    readersOnlyRead { State.reset with turns := [.access (.reader 1)] }
      ∧ (∃ t, step { State.reset with turns := [.access (.reader 1)] } = .next t)
      ∧ ∃ t, step { State.reset with turns := [.run .control] } = .next t := by
  refine ⟨?_, ?_, ?_⟩
  · intro ps h b hb
    rw [List.eq_of_mem_replicate (n := Config.readers) h] at hb
    cases hb
  · rw [step_eq]
    exact ⟨_, rfl⟩
  · rw [step_eq]
    exact ⟨_, rfl⟩

theorem witness_HardResetMove : ({ published with turns := [.hardReset] } : State).turns = .hardReset :: [] := rfl

theorem witness_DecodeOfEncode : (Instr.processChunk 7 [1, -1, 2]).wellFormed = true ∧ Instr.nop.wellFormed = true
    ∧ (Instr.snapshot 3).wellFormed = true := by decide

end Sys2Proof.Machine
end

section
/-! PROOFS. The exponential-smoothing step of R13: its size, its direction, and how soon it reaches its target. -/

namespace Sys2Proof.Machine

/-! ### The size of one step -/

theorem ema_of_le {s x : Int} (a : Int) (h : s ≤ x) : ema s x a = s + cdiv ((x - s) * a) 65536 := if_pos h

theorem ema_of_lt {s x : Int} (a : Int) (h : x < s) : ema s x a = s - cdiv ((s - x) * a) 65536 := if_neg h.not_ge

/-- The ceiling of a positive quotient is at least 1: why a step rounded away from zero never stops short. -/
theorem one_le_cdiv {v b : Int} (hv : 0 < v) (hb : 0 < b) : 1 ≤ cdiv v b := by
  have hceil : 0 < cdiv v b * b := hv.trans_le (cdiv_spec hb).1
  exact pos_of_mul_pos_left hceil hb.le

/-- The two branches of the step, each with the ceiling pinned by its defining bounds. -/
theorem ema_step_size (s x a : Int) :
    ∃ q : Int, (s ≤ x ∧ ema s x a = s + q ∧ (q - 1) * 65536 < (x - s) * a ∧ (x - s) * a ≤ q * 65536)
      ∨ (x < s ∧ ema s x a = s - q ∧ (q - 1) * 65536 < (s - x) * a ∧ (s - x) * a ≤ q * 65536) := by
  obtain h | h := le_or_gt s x
  · obtain ⟨hle, hlt⟩ := cdiv_spec (a := (x - s) * a) (b := 65536) (by decide)
    exact ⟨_, .inl ⟨h, ema_of_le a h, hlt, hle⟩⟩
  · obtain ⟨hle, hlt⟩ := cdiv_spec (a := (s - x) * a) (b := 65536) (by decide)
    exact ⟨_, .inr ⟨h, ema_of_lt a h, hlt, hle⟩⟩

/-! ### The direction of one step -/

theorem lt_ema_of_lt {s x a : Int} (ha : 1 ≤ a) (h : s < x) : s + 1 ≤ ema s x a := by
  have hq := one_le_cdiv (mul_pos (sub_pos.2 h) ha) (b := 65536) (by decide)
  rw [ema_of_le a h.le]
  omega

theorem ema_lt_of_lt {s x a : Int} (ha : 1 ≤ a) (h : x < s) : ema s x a ≤ s - 1 := by
  have hq := one_le_cdiv (mul_pos (sub_pos.2 h) ha) (b := 65536) (by decide)
  rw [ema_of_lt a h]
  omega

/-! ### Reaching a constant target -/

/-- A step shortens the distance to the target by at least 1, down to 0 (the subtraction is the truncated one). -/
theorem ema_distance_le {s x a : Int} (h1 : 1 ≤ a) (ha : a ≤ 65536) :
    (x - ema s x a).natAbs ≤ (x - s).natAbs - 1 := by
  have hbetween := ema_between (s := s) (x := x) (by omega) ha
  obtain h | rfl | h := lt_trichotomy s x
  · have := lt_ema_of_lt h1 h
    omega
  · simp
  · have := ema_lt_of_lt h1 h
    omega

/-- Induction on a bound for the distance, for every starting state. -/
theorem ema_iterate_eq_target {x a : Int} (h1 : 1 ≤ a) (ha : a ≤ 65536) :
    ∀ (n : Nat) (s : Int), (x - s).natAbs ≤ n → (fun u => ema u x a)^[n] s = x
  | 0, s, hn => by
    rw [Function.iterate_zero_apply]
    omega
  | n + 1, s, hn => by
    have hdist := ema_distance_le (s := s) (x := x) h1 ha
    rw [Function.iterate_succ_apply]
    exact ema_iterate_eq_target h1 ha n _ (by omega)

/-- Settles O46: the step is a ceiling, so it moves at least 1, stays between state and target, and the distance falls
to 0 (R13). -/
theorem smoothingReachesTarget : Obligations.SmoothingReachesTarget := by
  intro s x a h0 ha
  have hbetween := ema_between (s := s) (x := x) h0 ha
  refine ⟨ema_step_size s x a, fun h1 => ⟨fun hlt => ?_, fun hgt => ?_, ?_, fun n => ema_iterate_eq_target h1 ha n s⟩⟩
  · exact ⟨lt_ema_of_lt h1 hlt, by omega⟩
  · exact ⟨by omega, ema_lt_of_lt h1 hgt⟩
  · rintro rfl
    exact ema_self s a

end Sys2Proof.Machine
end

section
/-! PROOFS. A command run one bus access at a time (R41, R86): runs of bus accesses of one port, and the runs that a
publication, a soft reset and a SNAPSHOT make where nothing else moves. -/

namespace Sys2Proof.Machine

/-! ### The command in progress on a port -/

/-- The last of two settings of a port's command in progress counts. -/
@[simp] theorem State.setBusy_setBusy (s : State) (p : Port) (a b : Option Busy) :
    (s.setBusy p a).setBusy p b = s.setBusy p b := by
  rcases p with _ | _ | r
  · rfl
  · rfl
  · simp only [State.setBusy, State.modPort, List.modify_modify_eq]
    rfl

/-- Clearing the command in progress of an idle port changes nothing. -/
theorem State.setBusy_none_of_idle {s : State} {p : Port} {ps : PortState} (hp : s.port? p = some ps)
    (hidle : ps.busy = none) : s.setBusy p none = s := by
  have hclear : ({ ps with busy := none } : PortState) = ps := by rw [← hidle]
  rcases p with _ | _ | r
  · obtain rfl : s.ctl = ps := Option.some.inj hp
    simp only [State.setBusy, State.modPort, hclear]
  · rfl
  · have hr : s.readers[r]? = some ps := hp
    obtain ⟨hlt, hget⟩ := List.getElem?_eq_some_iff.1 hr
    have hsame : s.readers.modify r (fun q => { q with busy := none }) = s.readers := by
      rw [List.modify_eq_set_get _ hlt, List.get_eq_getElem, hget, hclear, ← hget, List.set_getElem_self]
    simp only [State.setBusy, State.modPort, hsame]

theorem State.port?_setBusy {s : State} {p : Port} {ps : PortState} (hp : s.port? p = some ps) (b : Option Busy) :
    (s.setBusy p b).port? p = some { ps with busy := b } := by
  simp only [State.setBusy, State.port?_modPort_self, hp, Option.map_some]

/-! ### Runs of bus accesses -/

/-- `n` bus accesses of the command in progress on a port, with no other agent between them. -/
inductive AccessRun (p : Port) : Nat → State → State → Prop where
  | done (s : State) : AccessRun p 0 s s
  | access {n : Nat} {s t u : State} {ps : PortState} {b : Busy} : s.port? p = some ps → ps.busy = some b →
      s.busAccess cfg p b = .next t → AccessRun p n t u → AccessRun p (n + 1) s u

theorem AccessRun.trans {p : Port} {m n : Nat} {s t u : State} (h : AccessRun p m s t) (k : AccessRun p n t u) :
    AccessRun p (m + n) s u := by
  induction h with
  | done s => simpa using k
  | access hp hb ha _ ih => rw [Nat.add_right_comm]; exact .access hp hb ha (ih k)

/-- One access, from a state in which the port runs `b`. -/
theorem AccessRun.first {p : Port} {n : Nat} {s t u : State} {ps : PortState} {b : Busy} (hp : s.port? p = some ps)
    (ha : (s.setBusy p (some b)).busAccess cfg p b = .next t) (h : AccessRun p n t u) :
    AccessRun p (n + 1) (s.setBusy p (some b)) u :=
  .access (State.port?_setBusy hp _) rfl ha h

theorem writeAccess_withTurns {s u : State} {ws : List Word} {e : Word} {ph : WritePhase} {more : Option WritePhase}
    (h : s.writeAccess cfg ws e ph = some (u, more)) (ms : List Turn) :
    State.writeAccess cfg { s with turns := ms } ws e ph = some ({ u with turns := ms }, more) := by
  obtain ⟨rfl, rfl, rfl⟩ | ⟨w, rfl, hlt, rfl, rfl⟩ | ⟨rfl, rfl, rfl⟩ | ⟨rfl, rfl, rfl⟩ := writeAccess_cases h
  · rfl
  · simp only [State.writeAccess, if_pos hlt]; rfl
  · rfl
  · rfl

theorem afterWrite_withTurns (u : State) (p : Port) (more : Option WritePhase) (busy : WritePhase → Busy) (st : Status)
    (ms : List Turn) :
    State.afterWrite { u with turns := ms } p more busy st = { u.afterWrite p more busy st with turns := ms } := by
  cases more <;> rfl

theorem readAccess_withTurns {s t : State} {p : Port} {left : Nat} {s1 : Word} {out : List Word} {ph : ReadPhase}
    (h : s.readAccess cfg p left s1 out ph = some t) (ms : List Turn) :
    State.readAccess cfg { s with turns := ms } p left s1 out ph = some { t with turns := ms } := by
  cases ph with
  | seq1 =>
    simp only [State.readAccess, State.failAttempt] at h ⊢
    split_ifs at h ⊢ <;> cases h <;> rfl
  | word w =>
    simp only [State.readAccess] at h ⊢
    split_ifs at h ⊢ <;> cases h <;> rfl
  | seq2 => cases h; rfl
  | epoch s2 =>
    simp only [State.readAccess, State.failAttempt] at h ⊢
    split_ifs at h ⊢ <;> cases h <;> rfl

/-- A bus access neither reads nor changes the moves to come. -/
theorem busAccess_withTurns {s t : State} {p : Port} {b : Busy} (h : s.busAccess cfg p b = .next t) (ms : List Turn) :
    State.busAccess cfg { s with turns := ms } p b = .next { t with turns := ms } := by
  obtain ⟨ph, st, u, more, rfl, hw, rfl⟩ | ⟨ph, u, more, rfl, hw, rfl⟩ | ⟨left, ph, s1, out, rfl, hr⟩ := busAccess_cases h
  · simp only [State.busAccess, writeAccess_withTurns hw ms, afterWrite_withTurns]
  · simp only [State.busAccess, writeAccess_withTurns hw ms, afterWrite_withTurns]
  · simp only [State.busAccess, readAccess_withTurns hr ms]

/-- A machine's run goes on from its first step. -/
theorem run_succ_of_step {M : Host.Core} {k : Nat} {s t : M.State} (h : M.step s = .next t) :
    M.run (k + 1) s = M.run k t := by
  simp only [Host.Core.run, h]

/-- A run of bus accesses is what the machine makes of as many access moves of the port. -/
theorem AccessRun.core_run {p : Port} {n : Nat} {s t : State} (h : AccessRun p n s t) :
    Host.Core.run Sys2Proof.core n { s with turns := List.replicate n (.access p) } = .next { t with turns := [] } := by
  induction h with
  | done s => rfl
  | @access n s t u ps b hp hb ha _ ih =>
    have hstep : step { s with turns := List.replicate (n + 1) (.access p) }
        = .next { t with turns := List.replicate n (.access p) } := by
      have hport : State.port? { s with turns := List.replicate n (.access p) } p = some ps := by
        rw [← hp]; rcases p with _ | _ | r <;> rfl
      rw [step_eq]
      show State.agentTurn cfg { s with turns := List.replicate n (.access p) } p (State.begin cfg) = _
      simp only [State.agentTurn, hport, hb]
      exact busAccess_withTurns ha _
    have hrun := run_succ_of_step (M := Sys2Proof.core) (k := n)
      (s := ({ s with turns := List.replicate (n + 1) (.access p) } : State))
      (t := ({ t with turns := List.replicate n (.access p) } : State)) hstep
    exact hrun.trans ih

/-! ### A writer's run -/

/-- What the port P needs of its command in progress to run it as a writer of the words `ws` and the epoch `e`, which
answers `st` at its end, where the staging frame is `F`. -/
def WriterOf (F : Frame) (busy : WritePhase → Busy) (ws : List Word) (e : Word) (st : Status) : Prop :=
  ∀ (s t : State) (ph : WritePhase) (more : Option WritePhase), s.frame = F → s.writeAccess cfg ws e ph = some (t, more) →
    s.busAccess cfg .control (busy ph) = .next (t.afterWrite .control more busy st)

theorem writerOf_publish (F : Frame) (st : Status) :
    WriterOf F (fun ph => .publish ph st) (frameWords F) F.epoch st := by
  rintro s t ph more rfl h
  simp only [State.busAccess, h]

theorem writerOf_clear (F : Frame) : WriterOf F .clear (zeroWords cfg) 0 .ok := by
  rintro s t ph more rfl h
  simp only [State.busAccess, h]

/-- The phase in which the first `k` slot words are written. -/
def WritePhase.written (k : Nat) : WritePhase := if k < slotWords cfg then .word k else .closeSeq

/-- The slot words from `k` on, one access each. -/
theorem writer_words_run {F : Frame} {busy : WritePhase → Busy} {ws : List Word} {e : Word} {st : Status}
    (hw : WriterOf F busy ws e st) {rest : List Word} {k : Nat} {s : State} (hF : s.frame = F)
    (hk : k + rest.length = slotWords cfg) (hrest : rest = ws.drop k) :
    AccessRun .control rest.length (s.setBusy .control (some (busy (.written k))))
      ((s.writeSlots k rest).setBusy .control (some (busy .closeSeq))) := by
  induction rest generalizing k s with
  | nil =>
    have hphase : WritePhase.written k = .closeSeq := if_neg (by simp only [List.length_nil] at hk; omega)
    rw [hphase]
    exact .done _
  | cons v rest ih =>
    rw [List.length_cons] at hk
    have hlt : k < slotWords cfg := by omega
    have hphase : WritePhase.written k = .word k := if_pos hlt
    have hv : ws.getD k 0 = v := by
      rw [List.getD_eq_getElem?_getD, ← Nat.add_zero k, ← List.getElem?_drop, ← hrest]; rfl
    have hdrop : rest = ws.drop (k + 1) := by
      rw [← List.drop_drop, ← hrest]; rfl
    rw [hphase]
    refine AccessRun.first (State.port?_control s) ?_ (ih (s := s.writeSlot k v) hF (by omega) hdrop)
    have hacc : State.writeAccess cfg (s.setBusy .control (some (busy (.word k)))) ws e (.word k)
        = some ((s.setBusy .control (some (busy (.word k)))).writeSlot k v, some (.written (k + 1))) := by
      simp only [State.writeAccess, if_pos hlt, hv]
      rfl
    rw [hw (s.setBusy .control (some (busy (.word k)))) _ _ _ hF hacc]
    rfl

/-- A writer's 222 bus accesses are its whole sequence and the response after it. -/
theorem writer_run {busy : WritePhase → Busy} {ws : List Word} {e : Word} {st : Status} {s : State}
    (hw : WriterOf s.frame busy ws e st) (hlen : ws.length = slotWords cfg) (hidle : s.ctl.busy = none) :
    AccessRun .control 222 (s.setBusy .control (some (busy .openSeq)))
      ((s.writeSequence ws e).respondOn .control st []) := by
  have hwords := writer_words_run hw (rest := ws) (k := 0) (s := s.bumpSeq) rfl (by omega) rfl
  have hframe : (s.bumpSeq.writeSlots 0 ws).frame = s.frame := by rw [State.writeSlots_eq]; rfl
  have hctl : (s.writeSequence ws e).ctl.busy = none := by rw [State.writeSequence_ctl, hidle]
  have hend := State.setBusy_none_of_idle (State.port?_control (s.writeSequence ws e)) hctl
  have hlast : AccessRun .control 2 ((s.bumpSeq.writeSlots 0 ws).setBusy .control (some (busy .closeSeq)))
      ((s.writeSequence ws e).respondOn .control st []) := by
    refine AccessRun.first (State.port?_control _) (hw _ _ _ _ hframe rfl) ?_
    refine AccessRun.first (s := (s.bumpSeq.writeSlots 0 ws).bumpSeq) (State.port?_control _) (hw _ _ _ _ hframe rfl) ?_
    rw [← hend]
    exact .done _
  rw [hlen] at hwords
  exact AccessRun.first (State.port?_control s) (hw _ _ _ _ rfl rfl) (hwords.trans hlast)

end Sys2Proof.Machine
end

section
/-! PROOFS. The runs that a tick, a soft reset and a SNAPSHOT make, and that they end as the whole command does (R41,
R86). -/

namespace Sys2Proof.Machine

/-! ### The staging frame of a tick -/

theorem removeDC_length (c : Cfg) (samples : List Half) : (removeDC c (assembleChunk c samples)).length = c.n := by
  simp only [removeDC, assembleChunk, List.length_map, List.length_append, List.length_take, List.length_replicate]
  omega

/-- The words of a frame are as many as its arrays make them. -/
theorem frameWords_length_eq (f : Frame) : (frameWords f).length =
    11 + sampleWords f.wave.length + f.raw.length + f.smooth.length + f.pitch.length + f.band.length := by
  simp only [frameWords, List.length_append, List.length_cons, List.length_nil, packHalves_length]
  omega

/-- The staging frame of a tick fills the slot, whatever the state before it. -/
theorem tickFrame_words_length (s u : State) (ts : Word) (samples : List Half) :
    (frameWords (tickFrame cfg u ts (tickValues cfg s samples))).length = slotWords cfg := by
  have hchunk := removeDC_length cfg samples
  rw [frameWords_length_eq]
  simp only [tickFrame, tickValues, filterbank, postStage, pitchClasses, bandSummary, List.length_map, List.length_range,
    hchunk]
  rfl

@[simp] theorem State.runTick_frame (s : State) (ts : Word) (samples : List Half) :
    (s.runTick cfg ts samples).frame = tickFrame cfg s ts (tickValues cfg s samples) := by
  rw [runTick_eq]; rfl

@[simp] theorem State.runTick_ctl (s : State) (ts : Word) (samples : List Half) :
    (s.runTick cfg ts samples).ctl = s.ctl := by
  rw [runTick_eq]; rfl

@[simp] theorem State.runTick_cur (s : State) (ts : Word) (samples : List Half) :
    (s.runTick cfg ts samples).cur = s.cur := by
  rw [runTick_eq]; rfl

@[simp] theorem State.runTick_turns (s : State) (ts : Word) (samples : List Half) :
    (s.runTick cfg ts samples).turns = s.turns := by
  rw [runTick_eq]; rfl

/-! ### The runs of the two writers -/

/-- A command of port P runs there (R365). -/
theorem onControl_of_control {s : State} (hc : s.cur = .control) (t : State) : s.onControl t = .next t := by
  simp only [State.onControl, hc, Port.isControl, if_true]

/-- A tick begun on an idle control port ends, 222 bus accesses later, in the state that the whole tick gives (R150). -/
theorem processChunk_run {s : State} (hidle : s.ctl.busy = none) (hc : s.cur = .control) (ts : Word)
    (samples : List Half) :
    AccessRun .control 222 ((s.runTick cfg ts samples).setBusy .control (some (.publish .openSeq (chunkStatus cfg samples))))
      ((s.runTick cfg ts samples).publish.raise (chunkStatus cfg samples)) := by
  have hrun := writer_run (s := s.runTick cfg ts samples) (writerOf_publish _ (chunkStatus cfg samples))
    (by rw [State.runTick_frame]; exact tickFrame_words_length s s ts samples) (by rw [State.runTick_ctl, hidle])
  have hcur : (s.runTick cfg ts samples).publish.cur = .control := by
    rw [State.publish, State.writeSequence_cur, State.runTick_cur, hc]
  rw [State.raise, State.respond, hcur]
  exact hrun

/-- A soft reset begun on an idle control port ends, 222 bus accesses later, in the state that the whole command
gives (R155). -/
theorem softReset_run {s : State} (hidle : s.ctl.busy = none) (hc : s.cur = .control) :
    AccessRun .control 222 ((s.resetProducer cfg).setBusy .control (some (.clear .openSeq)))
      ((s.softReset cfg).raise .ok) := by
  have hrun := writer_run (s := s.resetProducer cfg) (writerOf_clear _) List.length_replicate hidle
  have hcur : (s.softReset cfg).cur = .control := by
    rw [State.softReset, State.writeSequence_cur, State.resetProducer_cur, hc]
  rw [State.raise, State.respond, hcur]
  exact hrun

/-! ### The run of a SNAPSHOT -/

/-- `s` with its port in a SNAPSHOT. -/
def State.inSnapshot (s : State) (left : Nat) (ph : ReadPhase) (s1 : Word) (out : List Word) : State :=
  s.setBusy s.cur (some (.snap left ph s1 out))

/-- One access of a SNAPSHOT of the port `s.cur`. -/
theorem AccessRun.read {s t u : State} {ps : PortState} {left n : Nat} {ph : ReadPhase} {s1 : Word} {out : List Word}
    (hp : s.port? s.cur = some ps)
    (hr : (s.inSnapshot left ph s1 out).readAccess cfg s.cur left s1 out ph = some t) (h : AccessRun s.cur n t u) :
    AccessRun s.cur (n + 1) (s.inSnapshot left ph s1 out) u :=
  AccessRun.first hp (by simp only [State.inSnapshot] at hr; simp only [State.busAccess, hr]) h

/-- The reads of the slot words from `k` on. -/
theorem snapshot_words_run {s : State} {ps : PortState} (hp : s.port? s.cur = some ps) (left : Nat) (s1 : Word)
    {n k : Nat} (hk : k + (n + 1) = slotWords cfg) (out : List Word) :
    AccessRun s.cur (n + 1) (s.inSnapshot left (.word k) s1 out)
      (s.inSnapshot left .seq2 s1 (out ++ (List.range' k (n + 1)).map s.bus.slot.readWord)) := by
  induction n generalizing k out with
  | zero =>
    have hlast : ¬ k + 1 < slotWords cfg := by omega
    refine AccessRun.read hp ?_ (.done _)
    simp only [State.readAccess, if_pos (show k < slotWords cfg by omega), if_neg hlast]
    simp only [State.inSnapshot, State.setBusy_setBusy]
    rfl
  | succ n ih =>
    have hnext : k + 1 < slotWords cfg := by omega
    have hrest := ih (k := k + 1) (by omega) (out ++ [s.bus.slot.readWord k])
    rw [List.append_assoc, List.singleton_append, ← List.map_cons, ← List.range'_succ] at hrest
    refine AccessRun.read hp ?_ hrest
    simp only [State.readAccess, if_pos (show k < slotWords cfg by omega), if_pos hnext]
    simp only [State.inSnapshot, State.setBusy_setBusy]
    rfl

/-- Ending a SNAPSHOT leaves the idle port with the response. -/
theorem inSnapshot_answered {s : State} {ps : PortState} (hp : s.port? s.cur = some ps) (hidle : ps.busy = none)
    (left : Nat) (ph : ReadPhase) (s1 : Word) (out : List Word) (st : Status) (data : List Word) :
    ((s.inSnapshot left ph s1 out).setBusy s.cur none).respondOn s.cur st data = s.respond st data := by
  rw [State.inSnapshot, State.setBusy_setBusy, State.setBusy_none_of_idle hp hidle, State.respond]

/-- A failed attempt that leaves others goes on to the next. -/
theorem failAttempt_more {s : State} (left : Nat) (ph : ReadPhase) (s1 : Word) (out : List Word) :
    (s.inSnapshot (left + 2) ph s1 out).failAttempt s.cur (left + 2) = s.inSnapshot (left + 1) .seq1 0 [] := by
  rw [State.failAttempt, if_neg (by omega)]
  simp only [State.inSnapshot, State.setBusy_setBusy]
  rfl

/-- The last attempt that fails ends the SNAPSHOT. -/
theorem failAttempt_last {s : State} {ps : PortState} (hp : s.port? s.cur = some ps) (hidle : ps.busy = none)
    (ph : ReadPhase) (s1 : Word) (out : List Word) :
    (s.inSnapshot 1 ph s1 out).failAttempt s.cur 1 = s.raise .noData := by
  rw [State.failAttempt, if_pos (Nat.le_refl 1), inSnapshot_answered hp hidle, State.raise]

/-- One attempt with nothing written meanwhile: it answers the copy that validates, or fails (R152). -/
theorem attempt_run {s t : State} {ps : PortState} (hp : s.port? s.cur = some ps) (hidle : ps.busy = none) {left : Nat}
    (hsome : ∀ out, s.attempt cfg = some out → t = s.respond .ok out)
    (hnone : s.attempt cfg = none → ∀ ph s1 out, ∃ n,
      AccessRun s.cur n ((s.inSnapshot left ph s1 out).failAttempt s.cur left) t) (s1 : Word) (out : List Word) :
    ∃ n, AccessRun s.cur n (s.inSnapshot left .seq1 s1 out) t := by
  by_cases hodd : seqOdd s.bus.wseq = true
  · obtain ⟨n, hn⟩ := hnone (by simp only [State.attempt, if_pos hodd]) .seq1 s1 out
    exact ⟨n + 1, AccessRun.read hp (if_pos hodd) hn⟩
  · have hcopy := snapshot_words_run hp left s.bus.wseq (n := 218) (k := 0) rfl []
    rw [List.nil_append, ← List.range_eq_range'] at hcopy
    have hstart : ∀ n, AccessRun s.cur n (s.inSnapshot left (.epoch s.bus.wseq) s.bus.wseq (s.bus.slot.words cfg)) t →
        ∃ n, AccessRun s.cur n (s.inSnapshot left .seq1 s1 out) t := by
      intro n hn
      refine ⟨(219 + (n + 1)) + 1, AccessRun.read hp (t := s.inSnapshot left (.word 0) s.bus.wseq []) ?_
        (hcopy.trans (AccessRun.read hp ?_ hn))⟩
      · refine (if_neg hodd).trans ?_
        simp only [State.inSnapshot, State.setBusy_setBusy]
        rfl
      · simp only [State.readAccess, State.inSnapshot, State.setBusy_setBusy]
        rfl
    by_cases hok : attemptOk s.bus.wseq s.bus.wseq s.bus.epoch (s.bus.slot.words cfg) = true
    · have hattempt : s.attempt cfg = some (s.bus.slot.words cfg) := by
        simp only [State.attempt, if_neg hodd, if_pos hok]
      refine hstart 1 (AccessRun.read hp (if_pos hok) ?_)
      rw [inSnapshot_answered hp hidle, ← hsome _ hattempt]
      exact .done _
    · have hattempt : s.attempt cfg = none := by simp only [State.attempt, if_neg hodd, if_neg hok]
      obtain ⟨n, hn⟩ := hnone hattempt (.epoch s.bus.wseq) s.bus.wseq (s.bus.slot.words cfg)
      exact hstart (n + 1) (AccessRun.read hp (if_neg hok) hn)

/-- A SNAPSHOT begun on an idle port ends, some number of accesses later, with the answer of the whole command. -/
theorem snapshot_run {s : State} {ps : PortState} (hp : s.port? s.cur = some ps) (hidle : ps.busy = none) (left : Nat)
    (s1 : Word) (out : List Word) :
    ∃ n, AccessRun s.cur n (s.inSnapshot (left + 1) .seq1 s1 out) (s.answerSnapshot (s.attempts cfg (left + 1))) := by
  induction left generalizing s1 out with
  | zero =>
    refine attempt_run hp hidle (fun out h => ?_) (fun h ph s1 out => ⟨0, ?_⟩) s1 out
    · simp only [State.attempts, h, State.answerSnapshot]
    · rw [failAttempt_last hp hidle]
      simp only [State.attempts, h, State.answerSnapshot]
      exact .done _
  | succ left ih =>
    refine attempt_run hp hidle (fun out h => ?_) (fun h ph s1 out => ?_) s1 out
    · simp only [State.attempts, h, State.answerSnapshot]
    · rw [failAttempt_more, State.attempts, h]
      exact ih 0 []

/-! ### The statement -/

/-- A run that ends with no move chosen is the machine's run. -/
theorem AccessRun.core_run_of_turns {p : Port} {n : Nat} {s t : State} (h : AccessRun p n s t) (ht : t.turns = []) :
    Host.Core.run Sys2Proof.core n { s with turns := List.replicate n (.access p) } = .next t := by
  rw [h.core_run, ← ht]

/-- Settles O59: the runs of the two writers and of the SNAPSHOT, as the machine takes them. -/
theorem oneAccessAtATime : Obligations.OneAccessAtATime := by
  intro s hturns
  refine ⟨fun hc hidle => ⟨fun ts samples t ht => ?_, fun t ht => ?_⟩, fun ps k t hp hidle ht => ?_⟩
  · simp only [exec, execProcessChunk, processChunkWith, onControl_of_control hc, Host.Outcome.next.injEq] at ht
    subst ht
    refine ⟨_, onControl_of_control hc _, ?_⟩
    rw [hc]
    refine (processChunk_run hidle hc ts samples).core_run_of_turns ?_
    rw [State.raise_turns, State.publish, State.writeSequence_turns, State.runTick_turns, hturns]
  · simp only [exec, execSoftReset, softResetWith, onControl_of_control hc, Host.Outcome.next.injEq] at ht
    subst ht
    refine ⟨_, onControl_of_control hc _, ?_⟩
    rw [hc]
    refine (softReset_run hidle hc).core_run_of_turns ?_
    rw [State.raise_turns, State.softReset, State.writeSequence_turns, State.resetProducer_turns, hturns]
  · simp only [exec, execSnapshot, snapshotWith, Host.Outcome.next.injEq] at ht
    subst ht
    have hend : ∀ out, (s.answerSnapshot out).turns = [] := by
      rintro (_ | out) <;> exact hturns
    cases hk : k.toNat with
    | zero =>
      refine ⟨s.raise .noData, 0, by simp only [State.begin, hk, if_true], ?_⟩
      exact (AccessRun.done _).core_run_of_turns (hend none)
    | succ left =>
      obtain ⟨n, hn⟩ := snapshot_run hp hidle left 0 []
      refine ⟨s.inSnapshot (left + 1) .seq1 0 [], n, ?_, hn.core_run_of_turns (hend _)⟩
      simp only [State.begin, hk, Nat.add_one_ne_zero, if_false, State.inSnapshot]

end Sys2Proof.Machine
end

section
/-! PROOFS. What a step can do to the stored state, said once: every step is a chain of a few effects, a whole tick and
a whole soft reset being begun and then run access by access (R86). -/

namespace Sys2Proof.Machine

/-! ### Effects -/

/-- What the invariants read is the same in both states; the streams, the responses and the bookkeeping may differ. -/
def sameStored (s t : State) : Prop :=
  sameProducer s t ∧ t.bus = s.bus ∧ t.ctl.busy = s.ctl.busy
    ∧ t.readers.map PortState.busy = s.readers.map PortState.busy

/-- What a step is made of. -/
inductive Effect : State → State → Prop where
  /-- Words taken off a stream or put on one, a response, a change of the bookkeeping. -/
  | streams {s t : State} : sameStored s t → Effect s t
  /-- The next bus access of a command in progress. -/
  | access {s t : State} {p : Port} {ps : PortState} {b : Busy} : s.port? p = some ps → ps.busy = some b →
      s.busAccess cfg p b = .next t → Effect s t
  /-- A tunable register written (R340). -/
  | tunable (s : State) (id : Nat) (v : Word) : Effect s (s.writeTunable id v)
  /-- A tick's own work, its publication still to come (R331). -/
  | beginTick {s : State} (ts : Word) (samples : List Half) : s.ctl.busy = none →
      Effect s ((s.runTick cfg ts samples).setBusy .control (some (.publish .openSeq (chunkStatus cfg samples))))
  /-- A soft reset's own work, its bus sequence still to come (R344). -/
  | beginReset {s : State} : s.ctl.busy = none →
      Effect s ((s.resetProducer cfg).setBusy .control (some (.clear .openSeq)))
  /-- A SNAPSHOT begun (R152). -/
  | beginSnapshot {s : State} {ps : PortState} (left : Nat) : s.port? s.cur = some ps → ps.busy = none →
      Effect s (s.inSnapshot left .seq1 0 [])
  /-- The reset line (R390). -/
  | hardReset (s : State) : Effect s (s.hardReset cfg)

/-- Effects one after the other. -/
abbrev Effects : State → State → Prop := Relation.ReflTransGen Effect

/-! ### What leaves the stored state alone -/

theorem sameProducer_refl (s : State) : sameProducer s s := ⟨rfl, rfl, rfl, rfl, rfl, rfl, rfl, rfl, rfl⟩

theorem setBusy_sameProducer (s : State) (p : Port) (b : Option Busy) : sameProducer s (s.setBusy p b) :=
  ⟨rfl, rfl, rfl, rfl, rfl, rfl, rfl, rfl, rfl⟩

/-- A change of one port that leaves its command in progress. -/
theorem modPort_sameStored (s : State) (p : Port) {f : PortState → PortState} (hf : ∀ ps, (f ps).busy = ps.busy) :
    sameStored s (s.modPort p f) := by
  refine ⟨sameProducer_refl s, rfl, ?_, ?_⟩
  · cases p with
    | control => exact hf s.ctl
    | reader r => rfl
  · rcases p with _ | _ | r
    · rfl
    · rfl
    · apply List.ext_getElem?
      intro i
      simp only [State.modPort, List.getElem?_map, List.getElem?_modify, Option.map_eq_map, Option.map_map]
      congr 1
      funext ps
      by_cases hi : r = i <;> simp [hi, hf]

theorem respond_sameStored (s : State) (st : Status) (data : List Word) : sameStored s (s.respond st data) :=
  modPort_sameStored s s.cur fun _ => rfl

theorem answerRead_sameStored (s : State) (v : Option Word) : sameStored s (s.answerRead v) := by
  cases v <;> exact respond_sameStored s _ _

theorem answerSnapshot_sameStored (s : State) (out : Option (List Word)) : sameStored s (s.answerSnapshot out) := by
  cases out <;> exact respond_sameStored s _ _

theorem fetched_sameStored (s : State) (p : Port) (rest : List Word) : sameStored s (s.fetched p rest) :=
  modPort_sameStored s p (f := fun ps => { ps with cmds := rest }) fun _ => rfl

/-! ### Steps are chains of effects -/

/-- A run of bus accesses is a chain of effects. -/
theorem AccessRun.effects {p : Port} {n : Nat} {s t : State} (h : AccessRun p n s t) : Effects s t := by
  induction h with
  | done s => exact .refl
  | access hp hb ha _ ih => exact .head (.access hp hb ha) ih

/-- A command of port P is a chain of effects if what it does on port P is; elsewhere it is only answered. -/
theorem onControl_effects {s u t : State} (h : s.onControl u = .next t) (hu : s.cur = .control → Effects s u) :
    Effects s t := by
  rw [onControl_eq, Host.Outcome.next.injEq] at h
  subst h
  cases hc : s.cur with
  | control => exact hu hc
  | reader r => exact .single (.streams (respond_sameStored s _ _))

theorem setTunable_effects {s t : State} {id : Byte} {v : Word} (h : execSetTunable id v s = .next t) : Effects s t := by
  refine onControl_effects h fun _ => .single ?_
  split_ifs
  · exact .tunable s _ v
  · exact .streams (respond_sameStored s _ _)

theorem ctl_idle_of_cur {s : State} {ps : PortState} (hp : s.port? s.cur = some ps) (hidle : ps.busy = none)
    (hc : s.cur = .control) : s.ctl.busy = none := by
  rw [hc] at hp
  rw [Option.some.inj hp, hidle]

/-- A command begun on an idle port is a chain of effects. -/
theorem begin_effects {i : Instr} {s t : State} {ps : PortState} (hp : s.port? s.cur = some ps) (hidle : ps.busy = none)
    (h : s.begin cfg i = .next t) : Effects s t := by
  have hctl := ctl_idle_of_cur hp hidle
  cases i with
  | nop => cases h; exact .single (.streams (respond_sameStored s _ _))
  | softReset =>
    refine onControl_effects h fun hc => .single ?_
    rw [hc]
    exact .beginReset (hctl hc)
  | processChunk ts samples =>
    refine onControl_effects h fun hc => .single ?_
    rw [hc]
    exact .beginTick ts samples (hctl hc)
  | setTunable id v => exact setTunable_effects h
  | getTunable id => exact onControl_effects h fun _ => .single (.streams (answerRead_sameStored s _))
  | getStatus idx => exact onControl_effects h fun _ => .single (.streams (answerRead_sameStored s _))
  | snapshot k =>
    cases h
    split_ifs
    · exact .single (.streams (respond_sameStored s _ _))
    · exact .single (.beginSnapshot k.toNat hp hidle)
  | getEpoch => cases h; exact .single (.streams (respond_sameStored s _ _))

/-- A command run whole on an idle port is a chain of effects: the writers are begun and then run to their ends. -/
theorem exec_effects {i : Instr} {s t : State} {ps : PortState} (hp : s.port? s.cur = some ps) (hidle : ps.busy = none)
    (h : exec i s = .next t) : Effects s t := by
  have hctl := ctl_idle_of_cur hp hidle
  cases i with
  | nop => cases h; exact .single (.streams (respond_sameStored s _ _))
  | softReset =>
    exact onControl_effects h fun hc => .head (.beginReset (hctl hc)) (softReset_run (hctl hc) hc).effects
  | processChunk ts samples =>
    exact onControl_effects h fun hc =>
      .head (.beginTick ts samples (hctl hc)) (processChunk_run (hctl hc) hc ts samples).effects
  | setTunable id v => exact setTunable_effects h
  | getTunable id => exact onControl_effects h fun _ => .single (.streams (answerRead_sameStored s _))
  | getStatus idx => exact onControl_effects h fun _ => .single (.streams (answerRead_sameStored s _))
  | snapshot k => cases h; exact .single (.streams (answerSnapshot_sameStored s _))
  | getEpoch => cases h; exact .single (.streams (respond_sameStored s _ _))

/-- A turn of a port's agent is a chain of effects if the commands it runs are. -/
theorem agentTurn_effects {f : Instr → State → Host.Outcome State Fault Refusal} {s t : State} {p : Port}
    (hf : ∀ {i : Instr} {u v : State} {ps : PortState}, u.port? u.cur = some ps → ps.busy = none → f i u = .next v →
      Effects u v) (h : s.agentTurn cfg p f = .next t) : Effects s t := by
  obtain ⟨ps, hp, ⟨b, hb, ha⟩ | ⟨-, -, rfl⟩ | ⟨w, payload, rest, why, -, -, -, rfl⟩ |
    ⟨w, payload, rest, i, hidle, -, -, hi⟩⟩ := agentTurn_cases h
  · exact .single (.access hp hb ha)
  · exact .refl
  · exact .head (.streams (fetched_sameStored s p rest)) (.single (.streams (respond_sameStored _ _ _)))
  · have hfetched : (s.fetched p rest).port? p = some { ps with cmds := rest } := by
      have hmod := State.port?_modPort_self s p fun ps => { ps with cmds := rest }
      rw [hp] at hmod
      refine Eq.trans ?_ hmod
      rcases p with _ | _ | r <;> rfl
    exact .head (.streams (fetched_sameStored s p rest)) (hf hfetched hidle hi)

/-- A move is a chain of effects. -/
theorem takeTurn_effects {s t : State} {m : Turn} (h : s.takeTurn cfg exec m = .next t) : Effects s t := by
  obtain ⟨p, -, ha⟩ | ⟨p, -, ha⟩ | ⟨p, ws, ps, -, -, rfl⟩ | ⟨-, rfl⟩ := takeTurn_cases h
  · exact agentTurn_effects exec_effects ha
  · exact agentTurn_effects begin_effects ha
  · exact .single (.streams (modPort_sameStored s p fun _ => rfl))
  · exact .single (.hardReset s)

/-- A step is a chain of effects. -/
theorem step_effects {s t : State} (h : step s = .next t) : Effects s t := by
  obtain ⟨-, -, rfl⟩ | ⟨m, rest, -, hm⟩ | ⟨p, -, -, hm⟩ := step_cases h
  · exact .refl
  · have hturns : Effect s { s with turns := rest } := .streams ⟨sameProducer_refl s, rfl, rfl, rfl⟩
    exact .head hturns (takeTurn_effects hm)
  · exact takeTurn_effects hm

/-- What every effect keeps, every step keeps. -/
theorem step_keeps {I : State → Prop} (hI : ∀ {u v : State}, Effect u v → I u → I v) {s t : State}
    (h : step s = .next t) (hs : I s) : I t := by
  have heffects := step_effects h
  clear h
  induction heffects with
  | refl => exact hs
  | tail _ e ih => exact hI e ih

/-! ### Effects on the producer -/

/-- What one bus read of a SNAPSHOT can be: the port goes on with its SNAPSHOT, or ends it with a response. -/
theorem readAccess_cases {s t : State} {p : Port} {left : Nat} {s1 : Word} {out : List Word} {ph : ReadPhase}
    (h : s.readAccess cfg p left s1 out ph = some t) :
    (∃ left' ph' s1' out', t = s.setBusy p (some (.snap left' ph' s1' out')))
      ∨ ∃ st data, t = (s.setBusy p none).respondOn p st data := by
  have hfail : (∃ left' ph' s1' out', s.failAttempt p left = s.setBusy p (some (.snap left' ph' s1' out')))
      ∨ ∃ st data, s.failAttempt p left = (s.setBusy p none).respondOn p st data := by
    unfold State.failAttempt
    split_ifs
    · exact .inr ⟨_, _, rfl⟩
    · exact .inl ⟨_, _, _, _, rfl⟩
  cases ph with
  | seq1 =>
    simp only [State.readAccess] at h
    split_ifs at h <;> cases h
    · exact hfail
    · exact .inl ⟨_, _, _, _, rfl⟩
  | word w =>
    simp only [State.readAccess] at h
    split_ifs at h <;> cases h <;> exact .inl ⟨_, _, _, _, rfl⟩
  | seq2 =>
    cases h
    exact .inl ⟨_, _, _, _, rfl⟩
  | epoch s2 =>
    simp only [State.readAccess] at h
    split_ifs at h <;> cases h
    · exact .inr ⟨_, _, rfl⟩
    · exact hfail

/-- A bus access leaves the producer state alone (R331). -/
theorem busAccess_sameProducer {s t : State} {p : Port} {b : Busy} (h : s.busAccess cfg p b = .next t) :
    sameProducer s t := by
  have hwrite : ∀ {ws e ph u more busy st}, s.writeAccess cfg ws e ph = some (u, more) →
      sameProducer s (u.afterWrite p more busy st) := by
    intro ws e ph u more busy st hw
    obtain ⟨-, rfl, rfl⟩ | ⟨w, -, -, rfl, rfl⟩ | ⟨-, rfl, rfl⟩ | ⟨-, rfl, rfl⟩ := writeAccess_cases hw <;>
      exact sameProducer_refl s
  obtain ⟨ph, st, u, more, -, hw, rfl⟩ | ⟨ph, u, more, -, hw, rfl⟩ | ⟨left, ph, s1, out, -, hr⟩ := busAccess_cases h
  · exact hwrite hw
  · exact hwrite hw
  · obtain ⟨_, _, _, _, rfl⟩ | ⟨_, _, rfl⟩ := readAccess_cases hr <;> exact sameProducer_refl s

/-- What a register write, a tick's own work and a reset keep of the producer state, every effect keeps. -/
theorem effect_keeps_producer {I : State → Prop} (hsame : ∀ {u v : State}, sameProducer u v → I u → I v)
    (htunable : ∀ (u : State) (id : Nat) (v : Word), I u → I (u.writeTunable id v))
    (htick : ∀ (u : State) (ts : Word) (samples : List Half), I u → I (u.runTick cfg ts samples))
    (hreset : ∀ u : State, I (u.resetProducer cfg)) {s t : State} (e : Effect s t) (hs : I s) : I t := by
  cases e with
  | streams h => exact hsame h.1 hs
  | access hp hb ha => exact hsame (busAccess_sameProducer ha) hs
  | tunable id v => exact htunable s id v hs
  | beginTick ts samples _ => exact hsame (setBusy_sameProducer _ _ _) (htick s ts samples hs)
  | beginReset _ => exact hsame (setBusy_sameProducer _ _ _) (hreset s)
  | beginSnapshot left _ _ => exact hsame (setBusy_sameProducer _ _ _) hs
  | hardReset => exact hsame (sameProducer_refl (s.resetProducer cfg)) (hreset s)

end Sys2Proof.Machine
end

section
/-! PROOFS. Ranges of stored arrays, and the first stages of a tick: the tunable registers, the filterbank and the
post-processor keep theirs (R42, R47, R48). -/

namespace Sys2Proof.Machine

/-! ### Arrays in a range -/

/-- Every value of an array is in `[0, top]`. -/
def valuesWithin (l : List Int) (top : Int) : Prop := ∀ v ∈ l, 0 ≤ v ∧ v ≤ top

/-- A value that is not negative is stored as no larger a word. -/
theorem u32_toNat_le {v : Int} {top : Nat} (h0 : 0 ≤ v) (h1 : v ≤ top) : (u32 v).toNat ≤ top := by
  unfold u32
  rw [BitVec.toNat_ofInt]
  omega

/-- An entry of an array without negative entries, one past the end, read as 0, included. -/
theorem at0_nonneg {l : List Int} (h : ∀ v ∈ l, 0 ≤ v) (i : Nat) : 0 ≤ at0 l i := by
  unfold at0
  rw [List.getD_eq_getElem?_getD]
  cases hi : l[i]? with
  | none => exact le_refl 0
  | some v => exact h v (List.mem_of_getElem? hi)

theorem arrayWithin_map_u32 {l : List Int} {len top : Nat} (hlen : l.length = len) (h : valuesWithin l top) :
    arrayWithin (l.map u32) len top := by
  refine ⟨by rw [List.length_map, hlen], fun w hw => ?_⟩
  obtain ⟨v, hv, rfl⟩ := List.mem_map.1 hw
  exact u32_toNat_le (h v hv).1 (h v hv).2

theorem valuesWithin_uvals {l : List Word} {len top : Nat} (h : arrayWithin l len top) : valuesWithin (uvals l) top := by
  intro v hv
  obtain ⟨w, hw, rfl⟩ := List.mem_map.1 hv
  exact ⟨uval_nonneg w, Int.ofNat_le.2 (h.2 w hw)⟩

/-- An entry of an array in a range is in it, an entry past the end, read as 0, included. -/
theorem at0_within {l : List Int} {top : Int} (htop : 0 ≤ top) (h : valuesWithin l top) (i : Nat) :
    0 ≤ at0 l i ∧ at0 l i ≤ top := by
  unfold at0
  rw [List.getD_eq_getElem?_getD]
  cases hi : l[i]? with
  | none => exact ⟨le_refl 0, htop⟩
  | some v => exact h v (List.mem_of_getElem? hi)

/-- An array computed entry by entry. -/
theorem arrayWithin_map_range {n top : Nat} {f : Nat → Int} (h : ∀ k, 0 ≤ f k ∧ f k ≤ top) :
    arrayWithin ((List.range n).map fun k => u32 (f k)) n top := by
  refine ⟨by rw [List.length_map, List.length_range], fun w hw => ?_⟩
  obtain ⟨k, -, rfl⟩ := List.mem_map.1 hw
  exact u32_toNat_le (h k).1 (h k).2

theorem arrayWithin_replicate {v : Word} (n : Nat) {top : Nat} (h : v.toNat ≤ top) :
    arrayWithin (List.replicate n v) n top :=
  ⟨List.length_replicate, fun w hw => by rw [List.eq_of_mem_replicate hw]; exact h⟩

/-! ### The tunable registers -/

@[simp] theorem State.writeTunable_tun (s : State) (id : Nat) (v : Word) :
    (s.writeTunable id v).tun = s.tun.set id (clampTunable id v) := by
  unfold State.writeTunable; split <;> rfl
@[simp] theorem State.writeTunable_post (s : State) (id : Nat) (v : Word) : (s.writeTunable id v).post = s.post := by
  unfold State.writeTunable; split <;> rfl
@[simp] theorem State.writeTunable_rawprev (s : State) (id : Nat) (v : Word) :
    (s.writeTunable id v).rawprev = s.rawprev := by
  unfold State.writeTunable; split <;> rfl
@[simp] theorem State.writeTunable_front (s : State) (id : Nat) (v : Word) : (s.writeTunable id v).front = s.front := by
  unfold State.writeTunable; split <;> rfl
@[simp] theorem State.writeTunable_track (s : State) (id : Nat) (v : Word) : (s.writeTunable id v).track = s.track := by
  unfold State.writeTunable; split <;> rfl

/-- A clamped value is in the legal range of its register (R340). -/
theorem clampTunable_inRange (id : Nat) (v : Word) :
    inRange (clampTunable id v) (tunableRange id).1 (tunableRange id).2 := by
  have hrange : (tunableRange id).1 ≤ (tunableRange id).2 ∧ (tunableRange id).2 < 4294967296 := by
    unfold tunableRange; split <;> decide
  have hclamp := clampInt_spec (v := uval v) (lo := (tunableRange id).1) (hi := (tunableRange id).2) (by omega)
  have huval := uval_u32 (v := clampInt (uval v) (tunableRange id).1 (tunableRange id).2) (by omega) (by omega)
  have hstored : ((clampTunable id v).toNat : Int) = clampInt (uval v) (tunableRange id).1 (tunableRange id).2 := huval
  unfold inRange
  omega

/-- A register write keeps the registers legal (R42). -/
theorem tunablesLegal_set {t : Tunables} (h : tunablesLegal t) (id : Nat) (v : Word) :
    tunablesLegal (t.set id (clampTunable id v)) := by
  obtain ⟨h0, h1, h2, h3, h4⟩ := h
  have hv := clampTunable_inRange id v
  unfold Tunables.set
  split
  · exact ⟨hv, h1, h2, h3, h4⟩
  · exact ⟨h0, hv, h2, h3, h4⟩
  · exact ⟨h0, h1, hv, h3, h4⟩
  · exact ⟨h0, h1, h2, hv, h4⟩
  · exact ⟨h0, h1, h2, h3, hv⟩
  · exact ⟨h0, h1, h2, h3, h4⟩

theorem tunablesLegal_reset : tunablesLegal Tunables.reset := by
  unfold tunablesLegal inRange
  decide

/-! ### What a tick's own work writes -/

@[simp] theorem State.runTick_tun (s : State) (ts : Word) (samples : List Half) :
    (s.runTick cfg ts samples).tun = s.tun := by
  rw [runTick_eq]; generalize tickValues cfg s samples = v; rfl
@[simp] theorem State.runTick_post (s : State) (ts : Word) (samples : List Half) :
    (s.runTick cfg ts samples).post = (tickValues cfg s samples).post := by
  rw [runTick_eq]; generalize tickValues cfg s samples = v; rfl
@[simp] theorem State.runTick_rawprev (s : State) (ts : Word) (samples : List Half) :
    (s.runTick cfg ts samples).rawprev = (tickValues cfg s samples).raw.map u32 := by
  rw [runTick_eq]; generalize tickValues cfg s samples = v; rfl
@[simp] theorem State.runTick_front (s : State) (ts : Word) (samples : List Half) :
    (s.runTick cfg ts samples).front = (tickValues cfg s samples).front := by
  rw [runTick_eq]; generalize tickValues cfg s samples = v; rfl
@[simp] theorem State.runTick_track (s : State) (ts : Word) (samples : List Half) :
    (s.runTick cfg ts samples).track = (tickValues cfg s samples).track := by
  rw [runTick_eq]; generalize tickValues cfg s samples = v; rfl

theorem tickValues_front (s : State) (samples : List Half) : (tickValues cfg s samples).front
    = (frontStage cfg (removeDC cfg (assembleChunk cfg samples)) s.front).1 := by
  simp only [tickValues]

theorem tickValues_track (s : State) (samples : List Half) : (tickValues cfg s samples).track
    = (trackStage cfg (tickValues cfg s samples).front
        (frontStage cfg (removeDC cfg (assembleChunk cfg samples)) s.front).2 s.track).1 := by
  simp only [tickValues]

/-! ### Filterbank -/

theorem isqrt_nonneg (v : Int) : 0 ≤ isqrt v := by
  unfold isqrt
  positivity

/-- The magnitude of a bin is in [0, 65535] (R180). -/
theorem binMagnitude_within (coef sink : Int) (st : Int × Int) :
    0 ≤ binMagnitude cfg coef sink st ∧ binMagnitude cfg coef sink st ≤ 65535 := by
  have hsum : 0 ≤ wSum cfg := by decide +kernel
  refine ⟨le_min (Int.ediv_nonneg ?_ hsum) (by norm_num), min_le_right _ _⟩
  exact mul_nonneg (by norm_num) (isqrt_nonneg _)

theorem filterbank_within (x : List Int) : valuesWithin (filterbank cfg x) 65535 := by
  intro v hv
  obtain ⟨k, -, rfl⟩ := List.mem_map.1 hv
  exact binMagnitude_within _ _ _

theorem filterbank_length (x : List Int) : (filterbank cfg x).length = 64 := by
  simp only [filterbank, List.length_map, List.length_range]
  rfl

/-! ### Post-processor -/

theorem loudness_within {raw loud : Int} (hr : 0 ≤ raw) (hl : 0 ≤ loud) :
    0 ≤ loudness raw loud ∧ loudness raw loud ≤ 65535 :=
  ⟨le_min (Int.ediv_nonneg (mul_nonneg hr hl) (by norm_num)) (by norm_num), min_le_right _ _⟩

/-- The soft knee maps [0, 65535] into itself (R204). -/
theorem softKnee_within {d knee : Int} (h0 : 0 ≤ d) (h1 : d ≤ 65535) (hk : 256 ≤ knee) :
    0 ≤ softKnee d knee ∧ softKnee d knee ≤ 65535 := by
  have hlt : softKnee d knee < 65536 := Int.ediv_lt_of_lt_mul (by omega) (by nlinarith)
  exact ⟨Int.ediv_nonneg (by omega) (by omega), by omega⟩

/-- A smoothing step between values of a range stays in it (R13). -/
theorem ema_within {s x a top : Int} (ha : 0 ≤ a ∧ a ≤ 65536) (hs : 0 ≤ s ∧ s ≤ top) (hx : 0 ≤ x ∧ x ≤ top) :
    0 ≤ ema s x a ∧ ema s x a ≤ top := by
  have := ema_between (s := s) (x := x) ha.1 ha.2
  omega

/-- The arrays of the post-processor keep their range at a tick (R203, R205). -/
theorem postStage_within {t : Tunables} {raw : List Int} {p : Post} (ht : tunablesLegal t)
    (hraw : valuesWithin raw 65535) (hfloor : arrayWithin p.floor 64 65535) (hsmooth : arrayWithin p.smooth 64 65535) :
    arrayWithin (postStage cfg t raw p).floor 64 65535 ∧ arrayWithin (postStage cfg t raw p).smooth 64 65535 := by
  obtain ⟨-, hattack, hrelease, hknee, halpha⟩ := ht
  have hloud : ∀ v ∈ cfg.loud, 0 ≤ v := by decide +kernel
  have hw : ∀ k, 0 ≤ loudness (at0 raw k) (at0 cfg.loud k) ∧ loudness (at0 raw k) (at0 cfg.loud k) ≤ 65535 :=
    fun k => loudness_within (at0_within (by norm_num) hraw k).1 (at0_nonneg hloud k)
  have hf := at0_within (by norm_num) (valuesWithin_uvals hfloor)
  have hs := at0_within (by norm_num) (valuesWithin_uvals hsmooth)
  unfold inRange at hattack hrelease hknee halpha
  refine ⟨arrayWithin_map_range fun k => ?_, arrayWithin_map_range fun k => ?_⟩
  · exact ema_within (by unfold uval; omega) (hf k) (hw k)
  · have habove : 0 ≤ aboveFloor (loudness (at0 raw k) (at0 cfg.loud k)) (at0 (uvals p.floor) k)
        ∧ aboveFloor (loudness (at0 raw k) (at0 cfg.loud k)) (at0 (uvals p.floor) k) ≤ 65535 := by
      have := hw k; have := hf k
      unfold aboveFloor; omega
    refine ema_within ?_ (hs k) (softKnee_within habove.1 habove.2 (by unfold uval; omega))
    unfold uval
    split_ifs <;> omega

/-! ### The statement -/

/-- The invariant of the spectral stages (R42, R47, R48). -/
def spectralLegal (s : State) : Prop := tunablesLegal s.tun ∧ spectralInRange s

theorem runTick_keeps_spectralLegal {s : State} (h : spectralLegal s) (ts : Word) (samples : List Half) :
    spectralLegal (s.runTick cfg ts samples) := by
  obtain ⟨ht, hfloor, hsmooth, -⟩ := h
  have hraw := filterbank_within (removeDC cfg (assembleChunk cfg samples))
  have hpost := postStage_within ht hraw hfloor hsmooth
  refine ⟨by rwa [State.runTick_tun], ?_, ?_, ?_⟩
  · rw [State.runTick_post]; exact hpost.1
  · rw [State.runTick_post]; exact hpost.2
  · rw [State.runTick_rawprev]; exact arrayWithin_map_u32 (filterbank_length _) hraw

theorem spectralInRange_resetProducer (s : State) : spectralInRange (s.resetProducer cfg) :=
  ⟨arrayWithin_replicate 64 (Nat.zero_le _), arrayWithin_replicate 64 (Nat.zero_le _),
    arrayWithin_replicate 64 (Nat.zero_le _)⟩

theorem effect_keeps_spectralLegal {s t : State} (e : Effect s t) (h : spectralLegal s) : spectralLegal t := by
  refine effect_keeps_producer (I := spectralLegal) ?_ ?_ ?_ ?_ e h
  · rintro u v ⟨htun, -, -, -, hpost, hraw, -⟩ hu
    simpa only [spectralLegal, spectralInRange, htun, hpost, hraw] using hu
  · rintro u id w ⟨ht, hspec⟩
    refine ⟨?_, ?_⟩
    · rw [State.writeTunable_tun]; exact tunablesLegal_set ht id w
    · simpa only [spectralInRange, State.writeTunable_post, State.writeTunable_rawprev] using hspec
  · exact fun u ts samples hu => runTick_keeps_spectralLegal hu ts samples
  · exact fun u => ⟨tunablesLegal_reset, spectralInRange_resetProducer u⟩

/-- Settles O49: a register write clamps, a tick smooths within [0, 65535], and nothing else writes these (R42, R203,
R205). -/
theorem spectralStateKept : Obligations.SpectralStateKept :=
  fun _ _ ht hs hstep => step_keeps (I := spectralLegal) effect_keeps_spectralLegal hstep ⟨ht, hs⟩

/-! ### The tempo front end -/

theorem shiftWindow_length {tbuf : List Half} {x : List Int} (ht : tbuf.length = 256) (hx : x.length = cfg.n) :
    (shiftWindow cfg tbuf x).length = 256 := by
  simp only [shiftWindow, List.length_append, List.length_drop, List.length_map, ht, hx]
  rfl

theorem spectrum_length (b : List Int) : (spectrum cfg b).length = 127 := by
  simp only [spectrum, List.length_map, List.length_range]
  rfl

/-- A chunk shifted in keeps the shape (R240). -/
theorem ingest_shaped {f : Front} {x : List Int} (h : frontShaped f) (hx : x.length = cfg.n) :
    frontShaped (ingest cfg x f) := by
  obtain ⟨hbuf, hprev, hmed, hring, hmix, hlow, hmh, hfill⟩ := h
  have hn : (cfg.n : Int) = 128 := rfl
  have hnt : (cfg.nt : Int) = 256 := rfl
  refine ⟨shiftWindow_length hbuf hx, hprev, hmed, hring, hmix, hlow, hmh, ?_⟩
  simp only [ingest, hn, hnt]
  obtain h | h | h := hfill <;> rw [h] <;> decide

/-- Storing the spectrum keeps the shape (R242). -/
theorem keepSpectrum_shaped {f : Front} {m : List Int} (h : frontShaped f) (hm : m.length = 127) :
    frontShaped (keepSpectrum m f) := by
  obtain ⟨hbuf, -, hrest⟩ := h
  exact ⟨hbuf, by rw [keepSpectrum_mprev, List.length_map, hm], hrest⟩

/-- The pushes of a novelty keep the shape (R247, R250). -/
theorem onsetStage_shaped {f : Front} (h : frontShaped f) (m : List Int) : frontShaped (onsetStage cfg m f).1 := by
  obtain ⟨hbuf, hprev, hmed, hring, hmix, hlow, hmh, hfill⟩ := h
  have hpush : ∀ {r : List Word} (v : Word), r.length = f.hmix.length →
      (push r v cfg.h).length = min (f.hmix.length + 1) 512 := by
    intro r v hr
    rw [push_length r v (show r.length ≤ cfg.h by rw [hr]; exact hmix), hr]
    rfl
  refine ⟨hbuf, hprev, ?_, ?_, ?_, ?_, ?_, hfill⟩
  · simp only [onsetStage, List.length_zipWith, List.length_map, hmed]
    rfl
  · intro r hr
    obtain ⟨i, hi, rfl⟩ := List.getElem_of_mem hr
    simp only [onsetStage, List.getElem_zipWith, pushMedian]
    rw [push_length _ _ (show _ ≤ cfg.medDepth from hring _ (List.getElem_mem _))]
    exact min_le_right _ _
  · show (push f.hmix _ cfg.h).length ≤ 512
    rw [hpush _ rfl]
    exact min_le_right _ _
  · show (push f.hlow _ cfg.h).length = (push f.hmix _ cfg.h).length
    rw [hpush _ hlow, hpush _ rfl]
  · show (push f.hmh _ cfg.h).length = (push f.hmix _ cfg.h).length
    rw [hpush _ hmh, hpush _ rfl]

/-- The front end keeps its shape at a tick: gate closed, first spectrum, or novelty (R240 to R250). -/
theorem frontStage_shaped {f : Front} {x : List Int} (h : frontShaped f) (hx : x.length = cfg.n) :
    frontShaped (frontStage cfg x f).1 := by
  have hin := ingest_shaped h hx
  unfold frontStage
  dsimp only
  split_ifs
  · exact keepSpectrum_shaped (onsetStage_shaped hin _) (spectrum_length _)
  · exact keepSpectrum_shaped hin (spectrum_length _)
  · exact hin

theorem frontShaped_reset : frontShaped (Front.reset cfg) := by
  unfold frontShaped
  decide +kernel

theorem effect_keeps_frontShaped {s t : State} (e : Effect s t) (h : frontShaped s.front) : frontShaped t.front := by
  refine effect_keeps_producer (I := fun u => frontShaped u.front) ?_ ?_ ?_ ?_ e h
  · rintro u v ⟨-, -, -, -, -, -, hfront, -⟩ hu
    simpa only [hfront] using hu
  · intro u id w hu
    simpa only [State.writeTunable_front] using hu
  · intro u ts samples hu
    rw [State.runTick_front, tickValues_front]
    exact frontStage_shaped hu (removeDC_length cfg samples)
  · exact fun u => frontShaped_reset

/-- Settles O50: each stage of the front end keeps the lengths (R240, R242, R247, R250). -/
theorem frontStateKept : Obligations.FrontStateKept :=
  fun _ _ h hstep => step_keeps (I := fun u => frontShaped u.front) effect_keeps_frontShaped hstep h

end Sys2Proof.Machine
end

section
/-! PROOFS. The tempo tracker: tempograms, lanes and scores in [0, 65536] (R273, R280, R281), the target period in the
lag range and the phase below the period (R278, R287 to R291). -/

namespace Sys2Proof.Machine

/-! ### Sums of arrays without negative entries -/

theorem sum_drop_le {l : List Int} (h : ∀ v ∈ l, 0 ≤ v) (k : Nat) : (l.drop k).sum ≤ l.sum :=
  (List.drop_sublist k l).sum_le_sum h

/-- An entry and the entries from a later one on are no more than the entries from the first on. -/
theorem at0_add_sum_drop_le {l : List Int} (h : ∀ v ∈ l, 0 ≤ v) {i j : Nat} (hij : i < j) :
    at0 l i + (l.drop j).sum ≤ (l.drop i).sum := by
  have htail : (l.drop j).sum ≤ (l.drop (i + 1)).sum := by
    have hdrop : l.drop j = (l.drop (i + 1)).drop (j - (i + 1)) := by rw [List.drop_drop]; congr 1; omega
    rw [hdrop]
    exact sum_drop_le (fun v hv => h v (List.mem_of_mem_drop hv)) _
  by_cases hi : i < l.length
  · rw [List.drop_eq_getElem_cons hi, List.sum_cons]
    have hat : at0 l i = l[i] := by simp [at0, List.getD_eq_getElem?_getD, hi]
    omega
  · rw [List.drop_of_length_le (by omega : l.length ≤ i), List.drop_of_length_le (by omega : l.length ≤ j)]
    simp [at0, List.getD_eq_getElem?_getD, List.getElem?_eq_none (by omega : l.length ≤ i)]

/-- Twice a sum of products is at most the sum of the squares, of each pair and so of all. -/
theorem two_mul_sum_zipWith_le (a b : List Int) :
    2 * (List.zipWith (· * ·) a b).sum ≤ (a.map fun v => v * v).sum + (b.map fun v => v * v).sum := by
  have hsq : ∀ l : List Int, 0 ≤ (l.map fun v => v * v).sum := by
    intro l
    refine List.sum_nonneg fun v hv => ?_
    obtain ⟨u, -, rfl⟩ := List.mem_map.1 hv
    exact mul_self_nonneg u
  induction a generalizing b with
  | nil => simpa using hsq b
  | cons x a ih =>
    cases b with
    | nil => simpa using hsq (x :: a)
    | cons y b =>
      simp only [List.zipWith_cons_cons, List.map_cons, List.sum_cons]
      nlinarith [ih b, sq_nonneg (x - y)]

/-- A quotient of a part by its whole, Q16.16. -/
theorem fdiv_share {part whole : Int} (h0 : 0 ≤ part) (h1 : part ≤ whole) (hw : whole ≠ 0) :
    0 ≤ fdiv (part * 65536) whole ∧ fdiv (part * 65536) whole ≤ 65536 :=
  ⟨Int.ediv_nonneg (by omega) (by omega), Int.ediv_le_of_le_mul (by omega) (by nlinarith)⟩

/-! ### Tempograms -/

theorem uvals_nonneg (l : List Word) : ∀ v ∈ uvals l, 0 ≤ v := by
  intro v hv
  obtain ⟨w, -, rfl⟩ := List.mem_map.1 hv
  exact uval_nonneg w

/-- The autocorrelation is at most the energy: each product is at most the mean of two squares (R273). -/
theorem autocorr_within {h : List Int} (hh : ∀ v ∈ h, 0 ≤ v) (l : Nat) : 0 ≤ autocorr h l ∧ autocorr h l ≤ 65536 := by
  unfold autocorr
  split_ifs with hz
  · decide
  · refine fdiv_share ?_ ?_ hz
    · refine List.sum_nonneg fun v hv => ?_
      obtain ⟨i, hi, rfl⟩ := List.getElem_of_mem hv
      rw [List.getElem_zipWith]
      exact mul_nonneg (hh _ (List.mem_of_mem_drop (List.getElem_mem _))) (hh _ (List.getElem_mem _))
    · have hsum := two_mul_sum_zipWith_le (h.drop l) h
      have hdrop : ((h.drop l).map fun v => v * v).sum ≤ zeroLag h := by
        rw [List.map_drop]
        refine sum_drop_le (fun v hv => ?_) l
        obtain ⟨u, -, rfl⟩ := List.mem_map.1 hv
        exact mul_self_nonneg u
      unfold zeroLag at hdrop ⊢
      omega

theorem lMin_cfg : lMin cfg = 42 := by decide

theorem lMax_cfg : lMax cfg = 93 := by decide

theorem mem_lags {l : Nat} : l ∈ lags cfg ↔ 42 ≤ l ∧ l ≤ 93 := by
  simp only [lags, lMin_cfg, lMax_cfg, List.mem_map, List.mem_range]
  constructor
  · rintro ⟨a, ha, rfl⟩
    omega
  · exact fun h => ⟨l - 42, by omega, by omega⟩

theorem tgAt_within {t : List Int} (ht : valuesWithin t 65536) (l : Nat) : 0 ≤ tgAt cfg t l ∧ tgAt cfg t l ≤ 65536 :=
  at0_within (by norm_num) ht _

/-- A tempogram keeps its range at a heavy update (R273). -/
theorem tempogram_within {h t : List Int} (hh : ∀ v ∈ h, 0 ≤ v) (ht : valuesWithin t 65536) :
    valuesWithin (tempogram cfg h t) 65536 := by
  intro v hv
  obtain ⟨l, -, rfl⟩ := List.mem_map.1 hv
  exact ema_within (by decide) (tgAt_within ht l) (autocorr_within hh l)

theorem tempogram_length (h t : List Int) : (tempogram cfg h t).length = 52 := by
  simp only [tempogram, lags, lMin_cfg, lMax_cfg, List.length_map, List.length_range]

/-- Both tempograms keep their ranges (R52). -/
theorem updateTempograms_within (f : Front) {tr : Track} (hmix : arrayWithin tr.tmix 52 65536)
    (hmh : arrayWithin tr.tmh 52 65536) :
    arrayWithin (updateTempograms cfg f tr).tmix 52 65536 ∧ arrayWithin (updateTempograms cfg f tr).tmh 52 65536 :=
  ⟨arrayWithin_map_u32 (tempogram_length _ _) (tempogram_within (uvals_nonneg _) (valuesWithin_uvals hmix)),
    arrayWithin_map_u32 (tempogram_length _ _) (tempogram_within (uvals_nonneg _) (valuesWithin_uvals hmh))⟩

/-! ### Peaks and the base period -/

/-- The first of the largest is one of the list. -/
theorem argmaxFirst_mem {f : Nat → Int} {l : List Nat} {a : Nat} (h : argmaxFirst f l = some a) : a ∈ l := by
  cases l with
  | nil => cases h
  | cons b rest =>
    obtain rfl := Option.some.inj h
    refine List.foldlRecOn rest _ (motive := (· ∈ b :: rest)) List.mem_cons_self fun best hbest c hc => ?_
    split_ifs
    · exact List.mem_cons_of_mem _ hc
    · exact hbest

theorem argmaxFirst_isSome {f : Nat → Int} {l : List Nat} {a : Nat} (h : a ∈ l) : ∃ b, argmaxFirst f l = some b := by
  cases l with
  | nil => cases h
  | cons b rest => exact ⟨_, rfl⟩

theorem lag_of_mem_peaks {t : List Int} {l : Nat} (h : l ∈ peaks cfg t) : 42 ≤ l ∧ l ≤ 93 :=
  mem_lags.1 (List.mem_filter.1 h).1

/-- The base lag is a peak of one of the two tempograms (R276). -/
theorem baseLag_within {tmix tmh : List Int} {l1 : Nat} (h : l1 ∈ peaks cfg tmix) :
    42 ≤ (baseLag cfg tmix tmh l1).1 ∧ (baseLag cfg tmix tmh l1).1 ≤ 93 := by
  unfold baseLag
  split
  · rename_i lh hlh
    split_ifs
    · exact lag_of_mem_peaks (argmaxFirst_mem hlh)
    · exact lag_of_mem_peaks h
  · exact lag_of_mem_peaks h

/-- The parabolic offset keeps the base period in the lag range (R277). -/
theorem basePeriod_within {lb : Nat} (h : 42 ≤ lb ∧ lb ≤ 93) (t : List Int) :
    42 * 65536 ≤ basePeriod cfg lb t ∧ basePeriod cfg lb t ≤ 93 * 65536 := by
  unfold basePeriod
  simp only [lMin_cfg, lMax_cfg]
  split_ifs with hend hden
  · omega
  · omega
  · have := clampInt_spec
      (v := tdiv ((tgAt cfg t (lb - 1) - tgAt cfg t (lb + 1)) * 32768)
        (tgAt cfg t (lb - 1) - 2 * tgAt cfg t lb + tgAt cfg t (lb + 1)))
      (lo := -32768) (hi := 32768) (by norm_num)
    omega

/-! ### The comb -/

/-- The grid points rise, so their entries are no more than the entries from the first on (R280). -/
theorem gridSum_within {hb : List Int} (hh : ∀ v ∈ hb, 0 ≤ v) {p : Int} (hp : 65536 ≤ p) (phi fuel m : Nat) :
    0 ≤ gridSum cfg hb p phi fuel m
      ∧ gridSum cfg hb p phi fuel m ≤ (hb.drop (phi + asr (m * p + 32768) 16).toNat).sum := by
  have hsum : ∀ k, 0 ≤ (hb.drop k).sum := fun k => List.sum_nonneg fun v hv => hh v (List.mem_of_mem_drop hv)
  induction fuel generalizing m with
  | zero => exact ⟨le_refl 0, hsum _⟩
  | succ fuel ih =>
    have hmul : 0 ≤ (m : Int) * p := by positivity
    have hnext : asr (m * p + 32768) 16 + 1 ≤ asr ((m + 1 : Nat) * p + 32768) 16 := by
      have hsucc : ((m + 1 : Nat) : Int) * p = m * p + p := by push_cast; ring
      rw [hsucc]
      unfold asr
      omega
    have hpos : 0 ≤ asr (m * p + 32768) 16 := by unfold asr; omega
    have hat := at0_nonneg hh (phi + asr (m * p + 32768) 16).toNat
    obtain ⟨ih0, ih1⟩ := ih (m + 1)
    have hstep := at0_add_sum_drop_le hh
      (show (phi + asr (m * p + 32768) 16).toNat < (phi + asr ((m + 1 : Nat) * p + 32768) 16).toNat by omega)
    unfold gridSum
    dsimp only
    split_ifs
    · omega
    · exact ⟨le_refl 0, hsum _⟩

/-- The alignment of a comb is a share of the ring (R280). -/
theorem comb_align_within {h : List Int} (hh : ∀ v ∈ h, 0 ≤ v) {p : Int} (hp : 65536 ≤ p) (lc : Nat) :
    0 ≤ (comb cfg h p lc).2 ∧ (comb cfg h p lc).2 ≤ 65536 := by
  have hrev : ∀ v ∈ h.reverse, 0 ≤ v := fun v hv => hh v (List.mem_reverse.1 hv)
  unfold comb
  dsimp only
  split_ifs with hz
  · decide
  · obtain ⟨h0, h1⟩ := gridSum_within hrev hp ((argmaxFirst (combEnergy cfg h.reverse p) (List.range lc)).getD 0) cfg.h 0
    refine fdiv_share h0 (h1.trans ?_) hz
    rw [← List.sum_reverse (xs := h)]
    exact sum_drop_le hrev _

/-- The best offset of a comb is below the lag (R280). -/
theorem comb_offset_lt (h : List Int) (p : Int) {lc : Nat} (hlc : 0 < lc) : (comb cfg h p lc).1 < lc := by
  obtain ⟨a, ha⟩ := argmaxFirst_isSome (f := combEnergy cfg h.reverse p) (List.mem_range.2 hlc)
  simp only [comb, ha, Option.getD_some]
  exact List.mem_range.1 (argmaxFirst_mem ha)

/-! ### Lanes -/

/-- What a lane that can be selected gives the tracker: a period in the lag range and an offset below its lag (R278,
R280). -/
def laneTarget (L : Lane) : Prop :=
  (42 * 65536 ≤ L.period ∧ L.period ≤ 93 * 65536) ∧ L.phiMix < (rlag L.period).toNat

theorem laneValid_iff (p : Int) : laneValid cfg p = true ↔ 42 * 65536 ≤ p ∧ p ≤ 93 * 65536 := by
  simp [laneValid, lMin_cfg, lMax_cfg]

/-- A valid lane has a target (R278, R280). -/
theorem evalLane_target {hmix hmh tmix : List Int} {v2 base : Int} {tr : Track} {i : Nat}
    (h : (evalLane cfg hmix hmh tmix v2 base tr i).valid = true) :
    laneTarget (evalLane cfg hmix hmh tmix v2 base tr i) := by
  unfold evalLane at h ⊢
  dsimp only at h ⊢
  split_ifs at h ⊢ with hv
  have hp := (laneValid_iff _).1 hv
  refine ⟨hp, comb_offset_lt _ _ ?_⟩
  unfold rlag asr
  omega

/-- A lane's score is in [0, 65536] (R281). -/
theorem evalLane_score {hmix hmh tmix : List Int} {v2 base : Int} (tr : Track) (i : Nat) (hh : ∀ v ∈ hmix, 0 ≤ v)
    (ht : valuesWithin tmix 65536) (hv2 : 0 ≤ v2) :
    0 ≤ (evalLane cfg hmix hmh tmix v2 base tr i).score ∧ (evalLane cfg hmix hmh tmix v2 base tr i).score ≤ 65536 := by
  unfold evalLane
  dsimp only
  split_ifs with hv
  · have hp := (laneValid_iff _).1 hv
    have halign := comb_align_within hh (p := lanePeriod base i) (by omega) (rlag (lanePeriod base i)).toNat
    have htg := tgAt_within ht (rlag (lanePeriod base i)).toNat
    have hblend : cfg.blend = 32768 := rfl
    simp only [laneScore, prominence, hblend, fdiv]
    omega
  · exact ⟨le_refl 0, by norm_num⟩

theorem laneAt_map_range {f : Nat → Lane} {i : Nat} (hi : i < 4) : laneAt ((List.range 4).map f) i = f i := by
  simp [laneAt, List.getD_eq_getElem?_getD, hi]

/-- Arbitration selects a valid lane where there is one (R283, R284). -/
theorem arbitrate_valid {inc : Nat} {lanes : List Lane} {j : Nat} (hold : Int) (hinc : inc < 4) (hj : j < 4)
    (hvalid : (laneAt lanes j).valid = true) :
    arbitrate cfg inc hold lanes < 4 ∧ (laneAt lanes (arbitrate cfg inc hold lanes)).valid = true := by
  have hchosen : ∀ {f : Nat → Int} {q : Nat → Bool} {a : Nat}, (∀ i, q i = true → (laneAt lanes i).valid = true) →
      argmaxFirst f ((List.range 4).filter q) = some a → a < 4 ∧ (laneAt lanes a).valid = true := by
    intro f q a hq ha
    obtain ⟨hr, hqa⟩ := List.mem_filter.1 (argmaxFirst_mem ha)
    exact ⟨List.mem_range.1 hr, hq a hqa⟩
  unfold arbitrate
  dsimp only
  split_ifs with hincv
  · cases hc : argmaxFirst (fun i => (laneAt lanes i).score) ((List.range 4).filter fun j =>
        (laneAt lanes j).valid && j ≠ inc && qualifies cfg (incumbentScore cfg hold (laneAt lanes inc).score)
          (laneAt lanes inc).period (laneAt lanes j)) with
    | none => exact ⟨hinc, hincv⟩
    | some a => exact hchosen (fun i hi => by simp only [Bool.and_eq_true] at hi; exact hi.1.1) hc
  · obtain ⟨a, ha⟩ := argmaxFirst_isSome (f := fun i => (laneAt lanes i).score)
      (l := (List.range 4).filter fun j => (laneAt lanes j).valid) (List.mem_filter.2 ⟨List.mem_range.2 hj, hvalid⟩)
    rw [ha]
    exact hchosen (fun _ hi => hi) ha

/-! ### The heavy update -/

/-- A heavy update finds no peak, or selects among the lanes at one (R275, R288). -/
theorem heavyUpdate_cases (f : Front) (tr : Track) :
    heavyUpdate cfg f tr = { updateTempograms cfg f tr with havePeak := false }
      ∨ ∃ l1 ∈ peaks cfg (uvals (updateTempograms cfg f tr).tmix),
          heavyUpdate cfg f tr =
            selectLane cfg (heavyLanes cfg f (updateTempograms cfg f tr) l1) (updateTempograms cfg f tr) := by
  unfold heavyUpdate
  dsimp only
  split
  · exact .inl rfl
  · rename_i l1 h1
    exact .inr ⟨l1, argmaxFirst_mem h1, rfl⟩

/-- The lane selected at a peak has a target: lane 1, the base period itself, is always valid (R278). -/
theorem selected_target {f : Front} {tr : Track} {l1 : Nat} (h : l1 ∈ peaks cfg (uvals tr.tmix)) {inc : Nat}
    (hinc : inc < 4) (hold : Int) :
    laneTarget (laneAt (heavyLanes cfg f tr l1) (arbitrate cfg inc hold (heavyLanes cfg f tr l1))) := by
  have hbase := basePeriod_within (baseLag_within (tmh := uvals tr.tmh) h)
    (baseLag cfg (uvals tr.tmix) (uvals tr.tmh) l1).2
  have hsame : (laneAt (heavyLanes cfg f tr l1) 1).valid = true := by
    have hv := (laneValid_iff _).2 hbase
    rw [heavyLanes, laneAt_map_range (by omega), evalLane]
    simp only [lanePeriod, laneRate, mul_one, fdiv, Int.ediv_one, hv, if_true]
  obtain ⟨hlt, hvalid⟩ := arbitrate_valid hold hinc (by omega) hsame
  have hlane : ∀ {i : Nat}, i < 4 → (laneAt (heavyLanes cfg f tr l1) i).valid = true →
      laneTarget (laneAt (heavyLanes cfg f tr l1) i) := by
    intro i hi hv
    rw [heavyLanes, laneAt_map_range hi] at hv ⊢
    exact evalLane_target hv
  exact hlane hlt hvalid

/-- The score selected is in [0, 65536] (R281). -/
theorem selected_score (f : Front) {tr : Track} (ht : arrayWithin tr.tmix 52 65536) (l1 i : Nat) :
    0 ≤ (laneAt (heavyLanes cfg f tr l1) i).score ∧ (laneAt (heavyLanes cfg f tr l1) i).score ≤ 65536 := by
  have hv2 : 0 ≤ secondPeak cfg (uvals tr.tmix) l1 := by
    unfold secondPeak
    exact List.foldlRecOn _ _ (motive := fun m : Int => 0 ≤ m) (le_refl 0) fun _ hm _ _ => le_max_of_le_left hm
  by_cases hi : i < 4
  · rw [heavyLanes, laneAt_map_range hi]
    exact evalLane_score tr i (uvals_nonneg _) (valuesWithin_uvals ht) hv2
  · have hnone : laneAt (heavyLanes cfg f tr l1) i =
        { period := 0, valid := false, lag := 0, phiMix := 0, phiMh := 0, score := 0, fwd := false } := by
      rw [laneAt, List.getD_eq_default]
      simp only [heavyLanes, List.length_map, List.length_range]
      omega
    rw [hnone]
    decide

end Sys2Proof.Machine
end

section
/-! PROOFS. The ranges of the tracker through the seven steps of R270: tempograms, score, confidence and silence level
(R52, R53, R55), target, period and phase (R54, R287). -/

namespace Sys2Proof.Machine

/-! ### The steps of one tick -/

/-- Whether the lane switched at a tick, which resets the hold counter (R286). -/
def laneSwitched (f : Front) (nv : Novelty) (tr : Track) : Bool :=
  heavyGate cfg f nv (silenceStep cfg nv tr) && (heavyStep cfg f nv (silenceStep cfg nv tr)).sel != tr.sel

/-- The tracker after a tick is its five steps one after the other (R270). -/
theorem trackStage_eq (f : Front) (nv : Novelty) (tr : Track) :
    (trackStage cfg f nv tr).1 = confStep cfg (heavyGate cfg f nv (silenceStep cfg nv tr))
      (pllStep cfg (heavyGate cfg f nv (silenceStep cfg nv tr))
        (holdStep (laneSwitched f nv tr) (heavyStep cfg f nv (silenceStep cfg nv tr)))).1 := by
  simp only [trackStage, laneSwitched]

/-- What a tick's tracker stage and a reset keep of the tracker, every effect keeps. -/
theorem effect_keeps_track {P : Track → Prop} (hstage : ∀ f nv tr, P tr → P (trackStage cfg f nv tr).1)
    (hreset : P (Track.reset cfg)) {s t : State} (e : Effect s t) (h : P s.track) : P t.track := by
  refine effect_keeps_producer (I := fun u => P u.track) ?_ ?_ ?_ (fun _ => hreset) e h
  · rintro u v ⟨-, -, -, -, -, -, -, htrack, -⟩ hu
    simpa only [htrack] using hu
  · intro u id w hu
    simpa only [State.writeTunable_track] using hu
  · intro u ts samples hu
    rw [State.runTick_track, tickValues_track]
    exact hstage _ _ _ hu

/-! ### Score, confidence and silence level -/

/-- A heavy update keeps the selected score in [0, 65536] (R281). -/
theorem heavyUpdate_selscore (f : Front) {tr : Track} (h : trackInRange tr) :
    (heavyUpdate cfg f tr).selscore.toNat ≤ 65536 := by
  obtain ⟨hmix, hmh, hscore, -, -⟩ := h
  obtain heq | ⟨l1, -, heq⟩ := heavyUpdate_cases f tr
  · rw [heq]; exact hscore
  · have hlane := selected_score f (updateTempograms_within f hmix hmh).1 l1
      (arbitrate cfg (updateTempograms cfg f tr).sel.toNat (uval (updateTempograms cfg f tr).hold)
        (heavyLanes cfg f (updateTempograms cfg f tr) l1))
    rw [heq]
    exact u32_toNat_le hlane.1 hlane.2

theorem silenceStep_inRange {tr : Track} (h : trackInRange tr) (nv : Novelty) : trackInRange (silenceStep cfg nv tr) := by
  obtain ⟨hmix, hmh, hscore, hconf, hsil⟩ := h
  refine ⟨hmix, hmh, hscore, hconf, ?_⟩
  have hlevel : ∀ b : Bool, 0 ≤ ema (uval tr.silLevel) (if b then 65536 else 0) cfg.alphaSl
      ∧ ema (uval tr.silLevel) (if b then 65536 else 0) cfg.alphaSl ≤ 65536 := by
    intro b
    refine ema_within (by decide) ⟨uval_nonneg _, Int.ofNat_le.2 hsil⟩ ?_
    cases b <;> decide
  exact u32_toNat_le (hlevel _).1 (hlevel _).2

theorem heavyStep_inRange {tr : Track} (h : trackInRange tr) (f : Front) (nv : Novelty) :
    trackInRange (heavyStep cfg f nv tr) := by
  obtain ⟨hmix, hmh, hscore, hconf, hsil⟩ := h
  have htg := updateTempograms_within f hmix hmh
  have hsel := heavyUpdate_selscore f ⟨hmix, hmh, hscore, hconf, hsil⟩
  unfold trackInRange
  simp only [heavyStep_tmix, heavyStep_tmh, heavyStep_selscore, heavyStep_conf, heavyStep_silLevel, heavyUpdate_tmix,
    heavyUpdate_tmh]
  split_ifs
  · exact ⟨htg.1, htg.2, hsel, hconf, hsil⟩
  · exact ⟨hmix, hmh, hscore, hconf, hsil⟩

theorem pllStep_inRange {tr : Track} (h : trackInRange tr) (ran : Bool) : trackInRange (pllStep cfg ran tr).1 := by
  simpa only [trackInRange, pllStep_tmix, pllStep_tmh, pllStep_selscore, pllStep_conf, pllStep_silLevel] using h

theorem confStep_inRange {tr : Track} (h : trackInRange tr) (ran : Bool) : trackInRange (confStep cfg ran tr) := by
  obtain ⟨hmix, hmh, hscore, hconf, hsil⟩ := h
  refine ⟨hmix, hmh, hscore, ?_, hsil⟩
  have hnext : 0 ≤ nextConf cfg ran tr ∧ nextConf cfg ran tr ≤ 65536 := by
    have hold : 0 ≤ uval tr.conf ∧ uval tr.conf ≤ 65536 := ⟨uval_nonneg _, Int.ofNat_le.2 hconf⟩
    have hsel : 0 ≤ uval tr.selscore ∧ uval tr.selscore ≤ 65536 := ⟨uval_nonneg _, Int.ofNat_le.2 hscore⟩
    unfold nextConf
    split_ifs
    · exact ema_within (by decide) hold hsel
    · exact ema_within (by decide) hold (by decide)
    · exact hold
  exact u32_toNat_le hnext.1 hnext.2

theorem holdStep_inRange {tr : Track} (h : trackInRange tr) (b : Bool) : trackInRange (holdStep b tr) := h

/-- The tracker keeps its ranges at a tick. -/
theorem trackStage_inRange {tr : Track} (h : trackInRange tr) (f : Front) (nv : Novelty) :
    trackInRange (trackStage cfg f nv tr).1 := by
  rw [trackStage_eq]
  exact confStep_inRange (pllStep_inRange (holdStep_inRange (heavyStep_inRange (silenceStep_inRange h nv) f nv) _) _) _

theorem trackInRange_reset : trackInRange (Track.reset cfg) :=
  ⟨arrayWithin_replicate 52 (Nat.zero_le _), arrayWithin_replicate 52 (Nat.zero_le _), Nat.zero_le _, Nat.zero_le _,
    Nat.le_refl _⟩

theorem effect_keeps_trackInRange {s t : State} (e : Effect s t) (h : trackInRange s.track) : trackInRange t.track :=
  effect_keeps_track (P := trackInRange) (fun f nv _ hu => trackStage_inRange hu f nv) trackInRange_reset e h

/-- Settles O51: the autocorrelation and the comb are shares of an energy, and every value stored is smoothed between
values of the range (R273, R280, R281, R292, R293). -/
theorem trackRangesKept : Obligations.TrackRangesKept :=
  fun _ _ h hstep => step_keeps (I := fun u => trackInRange u.track) effect_keeps_trackInRange hstep h

/-! ### Target, period and phase -/

/-- The offset of a target is below the target period, rounded to a tick (R280, R291). -/
def offsetBelow (t : Track) : Prop := t.phitarget.toNat < (t.ptarget.toNat + 32768) / 65536

/-- Selecting a lane with a target stores a target period in the lag range and an offset below it. -/
theorem target_stored {L : Lane} (h : laneTarget L) :
    inRange (u32 L.period) (42 * 65536) (93 * 65536)
      ∧ (u16 L.phiMix).toNat < ((u32 L.period).toNat + 32768) / 65536 := by
  obtain ⟨⟨hlo, hhi⟩, hphi⟩ := h
  have hperiod : ((u32 L.period).toNat : Int) = L.period := uval_u32 (by omega) (by omega)
  unfold rlag asr at hphi
  have hoffset : ((u16 L.phiMix).toNat : Int) = L.phiMix := uval_u16 (by omega) (by omega)
  unfold inRange
  omega

/-- What a heavy update leaves of the target: the old one and no peak, or a new one at a peak (R285, R288). -/
theorem heavyUpdate_target (f : Front) (tr : Track) :
    ((heavyUpdate cfg f tr).havePeak = false ∧ (heavyUpdate cfg f tr).ptarget = tr.ptarget
        ∧ (heavyUpdate cfg f tr).phitarget = tr.phitarget)
      ∨ ((heavyUpdate cfg f tr).havePeak = true ∧ inRange (heavyUpdate cfg f tr).ptarget (42 * 65536) (93 * 65536)
        ∧ offsetBelow (heavyUpdate cfg f tr)) := by
  obtain heq | ⟨l1, hl1, heq⟩ := heavyUpdate_cases f tr
  · rw [heq]; exact .inl ⟨rfl, rfl, rfl⟩
  · rw [heq]
    exact .inr ⟨rfl, target_stored (selected_target hl1 (updateTempograms cfg f tr).sel.isLt _)⟩

/-- The slewed period lies between the period and the target (R289). -/
theorem slewPeriod_within {period target lo hi : Int} (h0 : 0 ≤ period) (hp : lo ≤ period ∧ period ≤ hi)
    (ht : lo ≤ target ∧ target ≤ hi) :
    lo ≤ slewPeriod cfg period target ∧ slewPeriod cfg period target ≤ hi := by
  have hstep : 0 ≤ fdiv (period * cfg.slew) 65536 := Int.ediv_nonneg (mul_nonneg h0 (by decide)) (by norm_num)
  unfold slewPeriod clampInt
  dsimp only
  omega

/-- The PLL keeps the bounds of R287: it slews between bounded values and wraps the phase, and it locks onto a target
whose offset is below its period (R289 to R291). -/
theorem pllStep_bounded {tr : Track} {ran : Bool} (h : periodBounded tr)
    (hoffset : ran = true → tr.havePeak = true → offsetBelow tr) : periodBounded (pllStep cfg ran tr).1 := by
  obtain ⟨htarget, hperiod⟩ := h
  unfold pllStep
  dsimp only
  split_ifs with hset hlock
  · have ht := htarget (.inr hset)
    obtain ⟨hp, -⟩ := hperiod hset
    unfold inRange at ht hp
    have hslew := slewPeriod_within (period := uval tr.period) (target := uval tr.ptarget) (lo := 42 * 65536)
      (hi := 93 * 65536) (uval_nonneg _) (by unfold uval; omega) (by unfold uval; omega)
    have hp' : ((u32 (slewPeriod cfg (uval tr.period) (uval tr.ptarget))).toNat : Int) = _ :=
      uval_u32 (by omega) (by omega)
    have hwrap := emod_spec (a := advancedPhase cfg ran (slewPeriod cfg (uval tr.period) (uval tr.ptarget)) tr)
      (b := slewPeriod cfg (uval tr.period) (uval tr.ptarget)) (by omega)
    have hph : ((u32 (emod (advancedPhase cfg ran (slewPeriod cfg (uval tr.period) (uval tr.ptarget)) tr)
        (slewPeriod cfg (uval tr.period) (uval tr.ptarget)))).toNat : Int) = _ := uval_u32 hwrap.1 (by omega)
    refine ⟨fun _ => ht, fun _ => ⟨?_, ?_⟩⟩
    · unfold inRange; dsimp only; omega
    · dsimp only; omega
  · obtain ⟨hran, hpeak⟩ := Bool.and_eq_true_iff.1 hlock
    have ht := htarget (.inl hpeak)
    have hbelow := hoffset hran hpeak
    refine ⟨fun _ => ht, fun _ => ⟨ht, ?_⟩⟩
    unfold offsetBelow at hbelow
    unfold inRange at ht
    have hph : ((u32 (uval tr.phitarget * 65536)).toNat : Int) = (tr.phitarget.toNat : Int) * 65536 :=
      uval_u32 (by unfold uval; omega) (by unfold uval; omega)
    dsimp only
    omega
  · exact ⟨htarget, fun hset' => absurd hset' hset⟩

/-- The heavy step keeps the bounds of R287, and where it ran and has a peak the offset is below the target. -/
theorem heavyStep_bounded {tr : Track} (h : periodBounded tr) (f : Front) (nv : Novelty) :
    periodBounded (heavyStep cfg f nv tr)
      ∧ (heavyGate cfg f nv tr = true → (heavyStep cfg f nv tr).havePeak = true →
          offsetBelow (heavyStep cfg f nv tr)) := by
  obtain ⟨htarget, hperiod⟩ := h
  unfold periodBounded offsetBelow
  simp only [heavyStep_havePeak, heavyStep_ptarget, heavyStep_phitarget, heavyStep_period, heavyStep_phase,
    heavyStep_periodSet]
  split_ifs with hgate
  · obtain ⟨hpeak, hpt, -⟩ | ⟨-, hpt, hbelow⟩ := heavyUpdate_target f tr
    · refine ⟨⟨fun hor => ?_, hperiod⟩, fun _ hp => ?_⟩
      · rw [hpt]
        exact htarget (.inr (hor.resolve_left (by rw [hpeak]; exact Bool.false_ne_true)))
      · rw [hpeak] at hp; cases hp
    · exact ⟨⟨fun _ => hpt, hperiod⟩, fun _ _ => hbelow⟩
  · exact ⟨⟨htarget, hperiod⟩, fun hg => absurd hg hgate⟩

theorem holdStep_bounded {tr : Track} (h : periodBounded tr) (b : Bool) : periodBounded (holdStep b tr) := h

theorem confStep_bounded {tr : Track} (h : periodBounded tr) (ran : Bool) : periodBounded (confStep cfg ran tr) := h

/-- The tracker keeps the bounds of R287 at a tick. -/
theorem trackStage_bounded {tr : Track} (h : periodBounded tr) (f : Front) (nv : Novelty) :
    periodBounded (trackStage cfg f nv tr).1 := by
  have hsilence : periodBounded (silenceStep cfg nv tr) := h
  obtain ⟨hheavy, hoffset⟩ := heavyStep_bounded hsilence f nv
  rw [trackStage_eq]
  exact confStep_bounded (pllStep_bounded (holdStep_bounded hheavy _) hoffset) _

theorem periodBounded_reset : periodBounded (Track.reset cfg) := by
  simp [periodBounded, Track.reset]

theorem effect_keeps_periodBounded {s t : State} (e : Effect s t) (h : periodBounded s.track) : periodBounded t.track :=
  effect_keeps_track (P := periodBounded) (fun f nv _ hu => trackStage_bounded hu f nv) periodBounded_reset e h

/-- Settles O52: a new target is in the lag range, and the PLL slews towards it and wraps (R278, R287 to R291). -/
theorem periodBoundsKept : Obligations.PeriodBoundsKept :=
  fun _ _ h hstep => step_keeps (I := fun u => periodBounded u.track) effect_keeps_periodBounded hstep h

end Sys2Proof.Machine
end

section
/-! PROOFS. The frame bus: what an effect does to it, and that it keeps agreeing with what the producer is doing (R87,
R90, R150, R155). -/

namespace Sys2Proof.Machine

/-! ### Sequence numbers and epochs -/

/-- The write sequence turns from even to odd and back (R150). -/
@[simp] theorem seqOdd_succ (w : Word) : seqOdd (w + 1) = !seqOdd w := by
  have hparity : ∀ v : Word, seqOdd v = decide (v.toNat % 2 = 1) := fun v => by
    rw [seqOdd, BitVec.getLsbD, Nat.testBit_zero]
  rw [hparity, hparity, ← decide_not]
  congr 1
  rw [BitVec.toNat_add, eq_iff_iff]
  have h1 : (1 : Word).toNat = 1 := rfl
  omega

theorem nextEpoch_ne_zero (e : Word) : nextEpoch e ≠ 0 := by
  unfold nextEpoch
  split_ifs with h
  · decide
  · intro h0
    have := congrArg BitVec.toNat h0
    have hne : e.toNat ≠ 0xFFFFFFFF := fun hn => h (BitVec.eq_of_toNat_eq hn)
    rw [BitVec.toNat_add] at this
    have h1 : (1 : Word).toNat = 1 := rfl
    have h2 : (0 : Word).toNat = 0 := rfl
    have := e.isLt
    omega

theorem nextEpoch_ne_self (e : Word) : nextEpoch e ≠ e := by
  unfold nextEpoch
  split_ifs with h
  · rw [h]; decide
  · intro h0
    have := congrArg BitVec.toNat h0
    rw [BitVec.toNat_add] at this
    have h1 : (1 : Word).toNat = 1 := rfl
    have := e.isLt
    omega

/-! ### Commands that do not write -/

/-- A port with no command in progress, or one that only reads. -/
def notWriting (b : Option Busy) : Prop := ∀ x, b = some x → x.reads = true

theorem notWriting_none : notWriting none := fun _ h => by cases h

theorem notWriting_snap (left : Nat) (ph : ReadPhase) (s1 : Word) (out : List Word) :
    notWriting (some (.snap left ph s1 out)) := fun _ h => by cases h; rfl

theorem readersOnlyRead_iff (s : State) : readersOnlyRead s ↔ ∀ b ∈ s.readers.map PortState.busy, notWriting b := by
  simp [readersOnlyRead, notWriting]

theorem readersOnlyRead_of_busy_eq {s t : State} (h : t.readers.map PortState.busy = s.readers.map PortState.busy)
    (hs : readersOnlyRead s) : readersOnlyRead t := by
  rw [readersOnlyRead_iff] at hs ⊢
  rwa [h]

/-- Setting a command that does not write keeps the readers reading. -/
theorem readersOnlyRead_setBusy {s : State} (h : readersOnlyRead s) (p : Port) {b : Option Busy} (hb : notWriting b) :
    readersOnlyRead (s.setBusy p b) := by
  rcases p with _ | _ | r
  · exact h
  · exact h
  · intro ps hps x hx
    obtain ⟨i, hi⟩ := List.getElem?_of_mem hps
    simp only [State.setBusy, State.modPort, List.getElem?_modify, Option.map_eq_map, Option.map_eq_some_iff] at hi
    obtain ⟨q, hq, rfl⟩ := hi
    split_ifs at hx
    · exact hb x hx
    · exact h q (List.mem_of_getElem? hq) x hx

/-! ### When the bus is consistent -/

theorem busConsistent_iff_notWriting {s : State} (h : notWriting s.ctl.busy) :
    busConsistent s ↔ s.bus.slot.wf = true ∧ readersOnlyRead s ∧ (frameWords s.frame).length = 219
      ∧ seqOdd s.bus.wseq = false ∧ slotPublished s := by
  unfold busConsistent
  cases hb : s.ctl.busy with
  | none => exact Iff.rfl
  | some b =>
    cases b with
    | snap left ph s1 out => exact Iff.rfl
    | publish ph st => exact absurd (h _ hb) Bool.false_ne_true
    | clear ph => exact absurd (h _ hb) Bool.false_ne_true

theorem busConsistent_iff_publish {s : State} {ph : WritePhase} {st : Status} (h : s.ctl.busy = some (.publish ph st)) :
    busConsistent s ↔ s.bus.slot.wf = true ∧ readersOnlyRead s ∧ (frameWords s.frame).length = 219
      ∧ writerAt s (frameWords s.frame) ph ∧ s.frame.epoch = nextEpoch s.bus.epoch := by
  unfold busConsistent
  rw [h]

theorem busConsistent_iff_clear {s : State} {ph : WritePhase} (h : s.ctl.busy = some (.clear ph)) :
    busConsistent s ↔ s.bus.slot.wf = true ∧ readersOnlyRead s ∧ (frameWords s.frame).length = 219
      ∧ writerAt s [] ph := by
  unfold busConsistent
  rw [h]

/-! ### What an effect does to the bus -/

/-- The bus, the staging frame and what the writer of the bus is doing are the same, and the readers still read. -/
def busUnmoved (s t : State) : Prop :=
  t.frame = s.frame ∧ t.bus = s.bus ∧ readersOnlyRead t
    ∧ (t.ctl.busy = s.ctl.busy ∨ notWriting s.ctl.busy ∧ notWriting t.ctl.busy)

theorem busUnmoved_of_sameStored {s t : State} (hro : readersOnlyRead s) (h : sameStored s t) : busUnmoved s t := by
  obtain ⟨⟨-, -, -, -, -, -, -, -, hframe⟩, hbus, hbusy, hreaders⟩ := h
  exact ⟨hframe, hbus, readersOnlyRead_of_busy_eq hreaders hro, .inl hbusy⟩

/-- A port that does not write, set to a command that does not write. -/
theorem busUnmoved_setBusy {s : State} {p : Port} {ps : PortState} {b : Option Busy} (hro : readersOnlyRead s)
    (hp : s.port? p = some ps) (hps : notWriting ps.busy) (hb : notWriting b) : busUnmoved s (s.setBusy p b) := by
  refine ⟨rfl, rfl, readersOnlyRead_setBusy hro p hb, ?_⟩
  rcases p with _ | _ | r
  · obtain rfl := Option.some.inj hp
    exact .inr ⟨hps, hb⟩
  · exact .inl rfl
  · exact .inl rfl

theorem busUnmoved_respondOn {s t : State} (h : busUnmoved s t) (p : Port) (st : Status) (data : List Word) :
    busUnmoved s (t.respondOn p st data) := by
  obtain ⟨hframe, hbus, hro, hbusy⟩ := h
  have hsame : sameStored t (t.respondOn p st data) := modPort_sameStored t p fun _ => rfl
  obtain ⟨hframe', hbus', hro', -⟩ := busUnmoved_of_sameStored hro hsame
  refine ⟨hframe'.trans hframe, hbus'.trans hbus, hro', ?_⟩
  rw [hsame.2.2.1]
  exact hbusy

theorem busUnmoved_writeTunable {s : State} (hro : readersOnlyRead s) (id : Nat) (v : Word) :
    busUnmoved s (s.writeTunable id v) := by
  unfold State.writeTunable
  dsimp only
  split_ifs
  · exact busUnmoved_respondOn (t := { s with tun := s.tun.set id (clampTunable id v) }) ⟨rfl, rfl, hro, .inl rfl⟩ _ _ _
  · exact busUnmoved_respondOn (t := State.guardEvent { s with tun := s.tun.set id (clampTunable id v) })
      ⟨rfl, rfl, hro, .inl rfl⟩ _ _ _

/-- A reader's port runs no writer, so a bus access is a write of the control port or moves nothing on the bus (R90). -/
theorem access_bus_cases {s t : State} {p : Port} {ps : PortState} {b : Busy} (hro : readersOnlyRead s)
    (hp : s.port? p = some ps) (hb : ps.busy = some b) (ha : s.busAccess cfg p b = .next t) :
    busUnmoved s t
      ∨ (∃ ph st u more, s.ctl.busy = some (.publish ph st)
          ∧ s.writeAccess cfg (frameWords s.frame) s.frame.epoch ph = some (u, more)
          ∧ t = u.afterWrite .control more (fun ph' => .publish ph' st) st)
      ∨ (∃ ph u more, s.ctl.busy = some (.clear ph) ∧ s.writeAccess cfg (zeroWords cfg) 0 ph = some (u, more)
          ∧ t = u.afterWrite .control more .clear .ok) := by
  have hwriter : b.reads = false → p = .control ∧ s.ctl.busy = some b := by
    intro hreads
    rcases p with _ | _ | r
    · obtain rfl := Option.some.inj hp
      exact ⟨rfl, hb⟩
    · cases hp
    · have := hro ps (List.mem_of_getElem? hp) b hb
      rw [hreads] at this
      cases this
  obtain ⟨ph, st, u, more, rfl, hw, rfl⟩ | ⟨ph, u, more, rfl, hw, rfl⟩ | ⟨left, ph, s1, out, rfl, hr⟩ := busAccess_cases ha
  · obtain ⟨rfl, hctl⟩ := hwriter rfl
    exact .inr (.inl ⟨ph, st, u, more, hctl, hw, rfl⟩)
  · obtain ⟨rfl, hctl⟩ := hwriter rfl
    exact .inr (.inr ⟨ph, u, more, hctl, hw, rfl⟩)
  · have hps : notWriting ps.busy := hb ▸ notWriting_snap left ph s1 out
    obtain ⟨_, _, _, _, rfl⟩ | ⟨st, data, rfl⟩ := readAccess_cases hr
    · exact .inl (busUnmoved_setBusy hro hp hps (notWriting_snap _ _ _ _))
    · exact .inl (busUnmoved_respondOn (busUnmoved_setBusy hro hp hps notWriting_none) _ _ _)

/-- What an effect does to the bus: nothing, a write of a publication or of a soft reset, the begin of one, or a
hardware reset. -/
theorem effect_bus_cases {s t : State} (hro : readersOnlyRead s) (e : Effect s t) :
    busUnmoved s t
      ∨ (∃ ph st u more, s.ctl.busy = some (.publish ph st)
          ∧ s.writeAccess cfg (frameWords s.frame) s.frame.epoch ph = some (u, more)
          ∧ t = u.afterWrite .control more (fun ph' => .publish ph' st) st)
      ∨ (∃ ph u more, s.ctl.busy = some (.clear ph) ∧ s.writeAccess cfg (zeroWords cfg) 0 ph = some (u, more)
          ∧ t = u.afterWrite .control more .clear .ok)
      ∨ (∃ ts samples, s.ctl.busy = none
          ∧ t = (s.runTick cfg ts samples).setBusy .control (some (.publish .openSeq (chunkStatus cfg samples))))
      ∨ (s.ctl.busy = none ∧ t = (s.resetProducer cfg).setBusy .control (some (.clear .openSeq)))
      ∨ t = s.hardReset cfg := by
  cases e with
  | streams h => exact .inl (busUnmoved_of_sameStored hro h)
  | access hp hb ha =>
    obtain h | h | h := access_bus_cases hro hp hb ha
    · exact .inl h
    · exact .inr (.inl h)
    · exact .inr (.inr (.inl h))
  | tunable id v => exact .inl (busUnmoved_writeTunable hro id v)
  | beginTick ts samples hidle => exact .inr (.inr (.inr (.inl ⟨ts, samples, hidle, rfl⟩)))
  | beginReset hidle => exact .inr (.inr (.inr (.inr (.inl ⟨hidle, rfl⟩))))
  | beginSnapshot left hp hidle =>
    exact .inl (busUnmoved_setBusy hro hp (hidle ▸ notWriting_none) (notWriting_snap _ _ _ _))
  | hardReset => exact .inr (.inr (.inr (.inr (.inr rfl))))

/-! ### A write of a writer's sequence -/

/-- The next write finds the bus as far as the writer has got, and leaves it one phase further; the last leaves the
words in the slot and the epoch set (R87, R150, R155). -/
theorem writeAccess_advances {s u : State} {ws words : List Word} {e : Word} {ph : WritePhase} {more : Option WritePhase}
    (hwords : ∀ w < 219, words.getD w 0 = ws.getD w 0) (hwf : s.bus.slot.wf = true) (hat : writerAt s ws ph)
    (h : s.writeAccess cfg words e ph = some (u, more)) :
    u.bus.slot.wf = true
      ∧ ((∃ ph', more = some ph' ∧ ph' ≠ .openSeq ∧ writerAt u ws ph' ∧ u.bus.epoch = s.bus.epoch)
        ∨ (more = none ∧ seqOdd u.bus.wseq = false ∧ slotHolds u ws 219 ∧ u.bus.epoch = e)) := by
  obtain ⟨rfl, rfl, rfl⟩ | ⟨w, rfl, hlt, rfl, rfl⟩ | ⟨rfl, rfl, rfl⟩ | ⟨rfl, rfl, rfl⟩ := writeAccess_cases h
  · obtain ⟨heven, -⟩ := hat
    refine ⟨hwf, .inl ⟨_, rfl, by simp, ⟨?_, by omega, fun x hx => by omega⟩, rfl⟩⟩
    rw [State.bumpSeq_wseq, seqOdd_succ, heven]
    rfl
  · obtain ⟨hodd, -, hholds⟩ := hat
    have hnext : slotHolds (s.writeSlot w (words.getD w 0)) ws (w + 1) := by
      intro x hx
      rw [State.writeSlot_slot, Memory.readWord_writeWord hwf hlt]
      split_ifs with hxw
      · rw [hxw, hwords w hlt]
      · exact hholds x (by omega)
    refine ⟨Memory.wf_writeWord hwf hlt _, .inl ⟨_, rfl, ?_⟩⟩
    have hslot : slotWords cfg = 219 := rfl
    unfold WritePhase.afterWord
    split_ifs with hmore
    · exact ⟨by simp, ⟨hodd, by omega, hnext⟩, rfl⟩
    · have hlast : w + 1 = 219 := by omega
      exact ⟨by simp, ⟨hodd, hlast ▸ hnext⟩, rfl⟩
  · obtain ⟨hodd, hholds⟩ := hat
    refine ⟨hwf, .inl ⟨_, rfl, by simp, ⟨?_, hholds⟩, rfl⟩⟩
    rw [State.bumpSeq_wseq, seqOdd_succ, hodd]
    rfl
  · obtain ⟨heven, hholds⟩ := hat
    exact ⟨hwf, .inr ⟨rfl, heven, hholds, rfl⟩⟩

/-- A write leaves the staging frame and the ports alone. -/
theorem writeAccess_frame {s u : State} {words : List Word} {e : Word} {ph : WritePhase} {more : Option WritePhase}
    (h : s.writeAccess cfg words e ph = some (u, more)) : u.frame = s.frame ∧ u.readers = s.readers := by
  obtain ⟨-, rfl, -⟩ | ⟨w, -, -, rfl, -⟩ | ⟨-, rfl, -⟩ | ⟨-, rfl, -⟩ := writeAccess_cases h <;> exact ⟨rfl, rfl⟩

/-- The words of SOFT_RESET are those of no list at all. -/
theorem zeroWords_getD (w : Nat) : (zeroWords cfg).getD w 0 = ([] : List Word).getD w 0 := by
  rw [zeroWords, List.getD_eq_getElem?_getD, List.getElem?_replicate]
  split_ifs <;> rfl

/-- A slot that shows a publication, or none, has the epoch in its first word. -/
theorem slotPublished_first_word {s : State} (h : slotPublished s) : s.bus.slot.readWord 0 = s.bus.epoch := by
  obtain ⟨hzero, hholds⟩ | ⟨-, hepoch, hholds⟩ := h
  · rw [hzero, hholds 0 (by omega)]
    rfl
  · rw [← hepoch, hholds 0 (by omega)]
    rfl

/-- An empty slot reads as zeros. -/
theorem Memory.readWord_nil (w : Nat) : Memory.readWord [] w = 0 := by
  simp only [Memory.readWord, Memory.read_nil]
  decide

theorem zeroFrame_words_length : (frameWords (Frame.zero cfg)).length = 219 := by decide +kernel

@[simp] theorem State.runTick_bus (s : State) (ts : Word) (samples : List Half) :
    (s.runTick cfg ts samples).bus = s.bus := by
  rw [runTick_eq]; generalize tickValues cfg s samples = v; rfl

@[simp] theorem State.runTick_readers (s : State) (ts : Word) (samples : List Half) :
    (s.runTick cfg ts samples).readers = s.readers := by
  rw [runTick_eq]; generalize tickValues cfg s samples = v; rfl

/-! ### Every step keeps the bus consistent -/

theorem busUnmoved_keeps_busConsistent {s t : State} (hmove : busUnmoved s t) (h : busConsistent s) :
    busConsistent t := by
  obtain ⟨hframe, hbus, hro, hbusy | ⟨hs, ht⟩⟩ := hmove
  · obtain ⟨hwf, -, hlen, hstate⟩ := h
    refine ⟨by rwa [hbus], hro, by rwa [hframe], ?_⟩
    unfold slotPublished writerAt slotHolds at hstate ⊢
    simpa only [hbusy, hbus, hframe] using hstate
  · rw [busConsistent_iff_notWriting hs] at h
    rw [busConsistent_iff_notWriting ht]
    obtain ⟨hwf, -, hlen, hstate⟩ := h
    refine ⟨by rwa [hbus], hro, by rwa [hframe], ?_⟩
    unfold slotPublished slotHolds at hstate ⊢
    simpa only [hbus, hframe] using hstate

/-- A write of a publication keeps the agreement: the last one leaves it in the slot, with its epoch (R150). -/
theorem publish_access_busConsistent {s u : State} {ph : WritePhase} {st : Status} {more : Option WritePhase}
    (h : busConsistent s) (hb : s.ctl.busy = some (.publish ph st))
    (hw : s.writeAccess cfg (frameWords s.frame) s.frame.epoch ph = some (u, more)) :
    busConsistent (u.afterWrite .control more (fun ph' => .publish ph' st) st) := by
  obtain ⟨hwf, hro, hlen, hat, hepoch⟩ := (busConsistent_iff_publish hb).1 h
  obtain ⟨hframe, hreaders⟩ := writeAccess_frame hw
  have hro' : readersOnlyRead u := readersOnlyRead_of_busy_eq (by rw [hreaders]) hro
  have hadvance := writeAccess_advances (fun _ _ => rfl) hwf hat hw
  rw [← hframe] at hlen hepoch hadvance
  obtain ⟨hwf', ⟨ph', rfl, -, hat', he⟩ | ⟨rfl, heven, hholds, he⟩⟩ := hadvance
  · rw [← he] at hepoch
    exact (busConsistent_iff_publish (ph := ph') (st := st) rfl).2 ⟨hwf', hro', hlen, hat', hepoch⟩
  · have hpub : slotPublished u := .inr ⟨by rw [he, hepoch]; exact nextEpoch_ne_zero _, he.symm, hholds⟩
    exact (busConsistent_iff_notWriting notWriting_none).2 ⟨hwf', hro', hlen, heven, hpub⟩

/-- A write of a soft reset keeps the agreement: the last one leaves no publication (R155). -/
theorem clear_access_busConsistent {s u : State} {ph : WritePhase} {more : Option WritePhase} (h : busConsistent s)
    (hb : s.ctl.busy = some (.clear ph)) (hw : s.writeAccess cfg (zeroWords cfg) 0 ph = some (u, more)) :
    busConsistent (u.afterWrite .control more .clear .ok) := by
  obtain ⟨hwf, hro, hlen, hat⟩ := (busConsistent_iff_clear hb).1 h
  obtain ⟨hframe, hreaders⟩ := writeAccess_frame hw
  have hro' : readersOnlyRead u := readersOnlyRead_of_busy_eq (by rw [hreaders]) hro
  rw [← hframe] at hlen
  obtain ⟨hwf', ⟨ph', rfl, -, hat', -⟩ | ⟨rfl, heven, hholds, he⟩⟩ :=
    writeAccess_advances (fun w _ => zeroWords_getD w) hwf hat hw
  · exact (busConsistent_iff_clear (ph := ph') rfl).2 ⟨hwf', hro', hlen, hat'⟩
  · have hnone : slotPublished u := .inl ⟨he, hholds⟩
    exact (busConsistent_iff_notWriting notWriting_none).2 ⟨hwf', hro', hlen, heven, hnone⟩

/-- A publication begins on a slot that shows the epoch, with the next epoch in its frame (R150). -/
theorem beginTick_busConsistent {s : State} (h : busConsistent s) (hidle : s.ctl.busy = none) (ts : Word)
    (samples : List Half) (st : Status) :
    busConsistent ((s.runTick cfg ts samples).setBusy .control (some (.publish .openSeq st))) := by
  obtain ⟨hwf, hro, -, heven, hpub⟩ := (busConsistent_iff_notWriting (hidle ▸ notWriting_none)).1 h
  have hlen := tickFrame_words_length s s ts samples
  have hepoch : (tickFrame cfg s ts (tickValues cfg s samples)).epoch = nextEpoch s.bus.epoch := rfl
  have hfirst := slotPublished_first_word hpub
  have hro' : readersOnlyRead (s.runTick cfg ts samples) :=
    readersOnlyRead_of_busy_eq (by rw [State.runTick_readers]) hro
  rw [← State.runTick_frame] at hlen hepoch
  rw [← State.runTick_bus s ts samples] at hwf heven hepoch hfirst
  generalize s.runTick cfg ts samples = u at *
  exact (busConsistent_iff_publish (ph := .openSeq) rfl).2 ⟨hwf, hro', hlen, ⟨heven, hfirst⟩, hepoch⟩

/-- A soft reset begins on a slot that shows the epoch (R155). -/
theorem beginReset_busConsistent {s : State} (h : busConsistent s) (hidle : s.ctl.busy = none) :
    busConsistent ((s.resetProducer cfg).setBusy .control (some (.clear .openSeq))) := by
  obtain ⟨hwf, hro, -, heven, hpub⟩ := (busConsistent_iff_notWriting (hidle ▸ notWriting_none)).1 h
  exact (busConsistent_iff_clear (ph := .openSeq) rfl).2
    ⟨hwf, hro, zeroFrame_words_length, heven, slotPublished_first_word (s := s) hpub⟩

/-- After a hardware reset nothing has been published and no port is busy (R390). -/
theorem hardReset_busConsistent (s : State) : busConsistent (s.hardReset cfg) := by
  have heven : seqOdd (0 : Word) = false := by decide
  have hro : readersOnlyRead (s.hardReset cfg) := by
    intro ps hps b hb
    obtain ⟨q, -, rfl⟩ := List.mem_map.1 hps
    cases hb
  exact (busConsistent_iff_notWriting notWriting_none).2
    ⟨rfl, hro, zeroFrame_words_length, heven, .inl ⟨rfl, fun w _ => Memory.readWord_nil w⟩⟩

/-- Every effect keeps the bus in agreement with the producer. -/
theorem effect_keeps_busConsistent {s t : State} (e : Effect s t) (h : busConsistent s) : busConsistent t := by
  obtain hmove | ⟨ph, st, u, more, hb, hw, rfl⟩ | ⟨ph, u, more, hb, hw, rfl⟩ | ⟨ts, samples, hidle, rfl⟩ | ⟨hidle, rfl⟩ |
    rfl := effect_bus_cases h.2.1 e
  · exact busUnmoved_keeps_busConsistent hmove h
  · exact publish_access_busConsistent h hb hw
  · exact clear_access_busConsistent h hb hw
  · exact beginTick_busConsistent h hidle ts samples _
  · exact beginReset_busConsistent h hidle
  · exact hardReset_busConsistent s

end Sys2Proof.Machine
end

section
/-! PROOFS. The frames: the words of a frame decode to it (R81), the staging frame of a tick is in range (R95), and every
step keeps the whole invariant of the stored state. -/

namespace Sys2Proof.Machine

/-! ### Decoding the words of a frame -/

@[simp] theorem lowHalf_append (a b : Half) : lowHalf (b ++ a) = a := by
  exact BitVec.extractLsb'_append_eq_right

@[simp] theorem highHalf_append (a b : Half) : highHalf (b ++ a) = b := by
  exact BitVec.extractLsb'_append_eq_left

/-- Unpacking undoes packing (R83, R115). -/
theorem unpackSamples_packHalves (l : List Half) : unpackSamples l.length (packHalves l) = l := by
  fun_induction packHalves l with
  | case1 => rfl
  | case2 a => simp [unpackSamples]
  | case3 a b rest ih => simp only [List.length_cons, unpackSamples, lowHalf_append, highHalf_append, ih]

/-- The fields of the last word of a frame (R81). -/
theorem lastWord_fields (pad : Half) (ready beat : Byte) :
    (pad ++ ready ++ beat : Word).extractLsb' 0 8 = beat ∧ (pad ++ ready ++ beat : Word).extractLsb' 8 8 = ready
      ∧ (pad ++ ready ++ beat : Word).extractLsb' 16 16 = pad := by
  refine ⟨BitVec.extractLsb'_append_eq_right, ?_, ?_⟩
  · rw [BitVec.extractLsb'_append_eq_of_le (by decide)]
    exact BitVec.extractLsb'_append_eq_right
  · rw [BitVec.extractLsb'_append_eq_of_le (by decide)]
    exact BitVec.extractLsb'_append_eq_left

/-- `decodeFrame` at the sizes of `ref1` (R81). -/
theorem decodeFrame_cfg (out : List Word) : decodeFrame cfg out =
    { epoch := out.getD 0 0, timestamp := out.getD 1 0, wave := unpackSamples 128 ((out.drop 2).take 64)
      peak := (out.drop 66).getD 0 0, rms := (out.drop 66).getD 1 0
      raw := (out.drop 68).take 64, smooth := (out.drop 132).take 64, pitch := (out.drop 196).take 12
      band := (out.drop 208).take 4
      novelty := (out.drop 212).getD 0 0, bpm := (out.drop 212).getD 1 0, phase := (out.drop 212).getD 2 0
      strength := (out.drop 212).getD 3 0, confidence := (out.drop 212).getD 4 0, silence := (out.drop 212).getD 5 0
      beatFlag := ((out.drop 212).getD 6 0).extractLsb' 0 8
      tempoReady := ((out.drop 212).getD 6 0).extractLsb' 8 8
      pad := ((out.drop 212).getD 6 0).extractLsb' 16 16 } := by
  have hat : ∀ i j : Nat, out.getD (i + j) 0 = (out.drop i).getD j 0 := by
    intro i j
    rw [List.getD_eq_getElem?_getD, List.getD_eq_getElem?_getD, List.getElem?_drop]
  rw [← hat 66 0, ← hat 66 1, ← hat 212 6]
  rfl

/-- A frame whose arrays have their lengths is what its words decode to (R81, R82). -/
theorem decodeFrame_frameWords {f : Frame} (hwave : f.wave.length = 128) (hraw : f.raw.length = 64)
    (hsmooth : f.smooth.length = 64) (hpitch : f.pitch.length = 12) (hband : f.band.length = 4) :
    decodeFrame cfg (frameWords f) = f := by
  have hpack : (packHalves f.wave).length = 64 := by rw [packHalves_length, hwave]; rfl
  have hunpack : unpackSamples 128 (packHalves f.wave) = f.wave := hwave ▸ unpackSamples_packHalves f.wave
  obtain ⟨hbeat, hready, hpad⟩ := lastWord_fields f.pad f.tempoReady f.beatFlag
  have h2 : (frameWords f).drop 2 = packHalves f.wave ++ ([f.peak, f.rms] ++ (f.raw ++ (f.smooth ++ (f.pitch ++ (f.band
      ++ [f.novelty, f.bpm, f.phase, f.strength, f.confidence, f.silence, f.pad ++ f.tempoReady ++ f.beatFlag]))))) := by
    simp only [frameWords, List.append_assoc, List.cons_append, List.nil_append, List.drop_succ_cons, List.drop_zero]
  have next : ∀ {a n : Nat} {l m : List Word}, (frameWords f).drop a = l ++ m → l.length = n →
      (frameWords f).drop (a + n) = m := by
    intro a n l m h hn
    rw [← List.drop_drop, h, ← hn, List.drop_left]
  have h66 := next h2 hpack
  have h68 := next h66 (n := 2) rfl
  have h132 := next h68 hraw
  have h196 := next h132 hsmooth
  have h208 := next h196 hpitch
  have h212 := next h208 hband
  rw [decodeFrame_cfg, h2, h66, h68, h132, h196, h208, h212, List.take_left' hpack, hunpack,
    List.take_left' hraw, List.take_left' hsmooth, List.take_left' hpitch, List.take_left' hband]
  simp only [List.getD_cons_zero, List.getD_cons_succ, List.cons_append, List.nil_append, hbeat, hready, hpad]
  rfl

/-- A slot that holds the words of a list has no others. -/
theorem words_of_slotHolds {s : State} {ws : List Word} (h : slotHolds s ws 219) (hlen : ws.length = 219) :
    s.bus.slot.words cfg = ws := by
  have hslot : slotWords cfg = 219 := rfl
  refine List.ext_getElem (by simp [Memory.words, hslot, hlen]) fun i hi hi' => ?_
  have := h i (by omega)
  simp only [Memory.words, List.getElem_map, List.getElem_range, this, List.getD_eq_getElem?_getD,
    List.getElem?_eq_getElem hi', Option.getD_some]

/-! ### The levels and summaries of a tick -/

/-- Every sample of the DC-removed chunk fits an i16 (R171). -/
theorem removeDC_within (x : List Int) : ∀ v ∈ removeDC cfg x, -32768 ≤ v ∧ v ≤ 32767 := by
  intro v hv
  obtain ⟨u, -, rfl⟩ := List.mem_map.1 hv
  exact ⟨(sat16_spec _).1, (sat16_spec _).2.1⟩

theorem peakLevel_within {x : List Int} (h : ∀ v ∈ x, -32768 ≤ v ∧ v ≤ 32767) :
    0 ≤ peakLevel x ∧ peakLevel x ≤ 65536 := by
  have := List.foldlRecOn x (fun m v => max m (v.natAbs : Int)) (b := 0) (motive := fun m : Int => 0 ≤ m ∧ m ≤ 32768)
    (by norm_num) fun m hm v hv => by have := h v hv; omega
  unfold peakLevel
  omega

/-- The root of a mean of squares is at most the largest sample (R172). -/
theorem rmsLevel_within {x : List Int} (hlen : x.length = cfg.n) (h : ∀ v ∈ x, -32768 ≤ v ∧ v ≤ 32767) :
    0 ≤ rmsLevel cfg x ∧ rmsLevel cfg x ≤ 65536 := by
  have hn : (cfg.n : Int) = 128 := rfl
  have hsq : ∀ v ∈ x.map (fun v => v * v), 0 ≤ v ∧ v ≤ 1073741824 := by
    intro w hw
    obtain ⟨v, hv, rfl⟩ := List.mem_map.1 hw
    have := h v hv
    exact ⟨mul_self_nonneg v, by nlinarith⟩
  have hsum : (x.map fun v => v * v).sum ≤ 128 * 1073741824 := by
    have := List.sum_le_card_nsmul _ _ fun v hv => (hsq v hv).2
    rw [List.length_map, hlen, nsmul_eq_mul] at this
    exact this
  have hmean : 0 ≤ fdiv (x.map fun v => v * v).sum cfg.n ∧ fdiv (x.map fun v => v * v).sum cfg.n ≤ 1073741824 := by
    have hnonneg := List.sum_nonneg fun v hv => (hsq v hv).1
    rw [hn]
    exact ⟨Int.ediv_nonneg hnonneg (by norm_num), Int.ediv_le_of_le_mul (by norm_num) (by omega)⟩
  obtain ⟨h0, h1, -⟩ := isqrt_spec hmean.1
  unfold rmsLevel
  have : isqrt (fdiv (x.map fun v => v * v).sum cfg.n) ≤ 32768 := by nlinarith
  omega

/-- A saturating sum of values that are not negative stays in the range of its ceiling (R221, R222). -/
theorem satSum_within {ceil : Int} (hc : 0 ≤ ceil) {l : List Int} (h : ∀ v ∈ l, 0 ≤ v) :
    0 ≤ satSum ceil l ∧ satSum ceil l ≤ ceil := by
  refine List.foldlRecOn l _ (motive := fun m : Int => 0 ≤ m ∧ m ≤ ceil) ⟨le_refl 0, hc⟩ fun m hm v hv => ?_
  have := h v hv
  unfold satadd
  omega

theorem pitchClasses_within {raw : List Int} (h : valuesWithin raw 65535) :
    arrayWithin ((pitchClasses cfg raw).map u32) 12 65536 := by
  refine arrayWithin_map_u32 (by simp [pitchClasses]) fun v hv => ?_
  obtain ⟨cl, -, rfl⟩ := List.mem_map.1 hv
  refine satSum_within (by decide) fun v hv => ?_
  obtain ⟨k, -, rfl⟩ := List.mem_map.1 hv
  exact (at0_within (by norm_num) h k).1

theorem bandSummary_within {smooth : List Int} (h : valuesWithin smooth 65535) :
    arrayWithin ((bandSummary cfg smooth).map u32) 4 65536 := by
  refine arrayWithin_map_u32 (by simp [bandSummary]) fun v hv => ?_
  obtain ⟨b, -, rfl⟩ := List.mem_map.1 hv
  refine satSum_within (by decide) fun v hv => ?_
  obtain ⟨k, -, rfl⟩ := List.mem_map.1 hv
  exact (at0_within (by norm_num) h k).1

theorem fluxNovelty_within (raw prev : List Int) :
    0 ≤ fluxNovelty cfg raw prev ∧ fluxNovelty cfg raw prev ≤ 65536 := by
  refine ⟨le_min (List.sum_nonneg fun v hv => ?_) (by decide), min_le_right _ _⟩
  obtain ⟨k, -, rfl⟩ := List.mem_map.1 hv
  exact le_max_left _ _

/-! ### The tempo fields of a tick -/

/-- The ranges of the tempo fields, and what a tick that is not ready publishes (R295 to R297). -/
def tempoOutOk (o : TempoOut) : Prop :=
  (0 ≤ o.phase ∧ o.phase ≤ 65535) ∧ (0 ≤ o.strength ∧ o.strength ≤ 65536) ∧ (0 ≤ o.confidence ∧ o.confidence ≤ 65536)
    ∧ (0 ≤ o.silence ∧ o.silence ≤ 65536) ∧ (o.ready = false → o.bpm = 0 ∧ o.phase = 0 ∧ o.strength = 0)
    ∧ (o.beat = true → o.ready = true)

theorem tempoOut_ok {tr : Track} (h : trackInRange tr) (f : Front) (nv : Novelty) (wrap : Bool) :
    tempoOutOk (tempoOut cfg f nv wrap tr) := by
  obtain ⟨hmix, -, -, hconf, hsil⟩ := h
  have hphase : 0 ≤ phaseOf (uval tr.phase) (uval tr.period) ∧ phaseOf (uval tr.phase) (uval tr.period) ≤ 65535 :=
    ⟨le_min (by norm_num) (Int.ediv_nonneg (mul_nonneg (uval_nonneg _) (by norm_num)) (uval_nonneg _)), min_le_left _ _⟩
  have hstrength := tgAt_within (valuesWithin_uvals hmix)
  unfold tempoOut tempoOutOk
  dsimp only
  refine ⟨?_, ?_, ⟨uval_nonneg _, Int.ofNat_le.2 hconf⟩, ⟨uval_nonneg _, Int.ofNat_le.2 hsil⟩, fun hr => ?_, fun hb => ?_⟩
  · split_ifs
    · exact hphase
    · decide
  · split_ifs
    · exact hstrength _
    · decide
  · simp only [hr, Bool.false_eq_true, if_false, and_self]
  · simp only [beatFlag, Bool.and_eq_true] at hb
    exact hb.1.1.1.2

theorem tickValues_out (s : State) (samples : List Half) : ∃ f nv wrap,
    (tickValues cfg s samples).out = tempoOut cfg f nv wrap (tickValues cfg s samples).track := by
  simp only [tickValues, trackStage]
  exact ⟨_, _, _, rfl⟩

/-! ### The staging frame of a tick -/

theorem bit_eq_zero_or_one (b : Bool) : u8 (bit b) = 0 ∨ u8 (bit b) = 1 := by
  cases b <;> decide

theorem bit_eq_zero {b : Bool} (h : u8 (bit b) = 0) : b = false := by
  cases b
  · rfl
  · exact absurd h (by decide)

theorem bit_eq_one {b : Bool} (h : u8 (bit b) = 1) : b = true := by
  cases b
  · exact absurd h (by decide)
  · rfl

/-- The staging frame of values in their ranges is in range (R57, R95). -/
theorem tickFrame_inRange {s : State} {ts : Word} {v : TickValues} (hlen : v.chunk.length = cfg.n)
    (hchunk : ∀ x ∈ v.chunk, -32768 ≤ x ∧ x ≤ 32767) (hrawlen : v.raw.length = 64) (hraw : valuesWithin v.raw 65535)
    (hsmooth : arrayWithin v.post.smooth 64 65535) (hout : tempoOutOk v.out) : frameInRange (tickFrame cfg s ts v) := by
  obtain ⟨hphase, hstrength, hconf, hsil, hready, hbeat⟩ := hout
  have hpeak := peakLevel_within hchunk
  have hrms := rmsLevel_within hlen hchunk
  have hflux := fluxNovelty_within v.raw (uvals s.rawprev)
  refine ⟨nextEpoch_ne_zero _, u32_toNat_le hpeak.1 hpeak.2, u32_toNat_le hrms.1 hrms.2, ?_,
    arrayWithin_map_u32 hrawlen hraw, hsmooth, pitchClasses_within hraw, bandSummary_within (valuesWithin_uvals hsmooth),
    u32_toNat_le hflux.1 hflux.2, u32_toNat_le hphase.1 hphase.2, u32_toNat_le hstrength.1 hstrength.2,
    u32_toNat_le hconf.1 hconf.2, u32_toNat_le hsil.1 hsil.2, bit_eq_zero_or_one _, bit_eq_zero_or_one _, rfl, ?_, ?_⟩
  · rw [tickFrame, List.length_map, hlen]; rfl
  · intro h
    obtain ⟨h0, h1, h2⟩ := hready (bit_eq_zero h)
    simp only [tickFrame, h0, h1, h2]
    decide
  · intro h
    simp only [tickFrame, hbeat (bit_eq_one h)]
    decide

end Sys2Proof.Machine
end

section
/-! PROOFS. Every step keeps the whole invariant of the stored state (R42, R47 to R55, R87, R95, R287, R291). -/

namespace Sys2Proof.Machine

/-! ### The lane state -/

/-- A heavy update keeps four grid offsets with their validity (R282). -/
theorem heavyUpdate_prevphi_length (f : Front) {tr : Track} (h : tr.prevphi.length = 4 ∧ tr.prevphiV.length = 4) :
    (heavyUpdate cfg f tr).prevphi.length = 4 ∧ (heavyUpdate cfg f tr).prevphiV.length = 4 := by
  obtain heq | ⟨l1, -, heq⟩ := heavyUpdate_cases f tr
  · rw [heq]; exact h
  · rw [heq]
    simp only [selectLane, List.length_map, List.length_range, and_self]

/-- The scheduler counter after a tick is a remainder of `HEAVY_N` (R272). -/
theorem heavyStep_heavyCtr_lt (f : Front) (nv : Novelty) (tr : Track) :
    (heavyStep cfg f nv tr).heavyCtr.toNat < cfg.heavyN := by
  have hn : (cfg.heavyN : Int) = 1 := rfl
  have hctr : (heavyStep cfg f nv tr).heavyCtr = u8 (emod (uval tr.heavyCtr + 1) cfg.heavyN) := by
    unfold heavyStep; rfl
  rw [hctr, hn, emod, Int.emod_one]
  decide

theorem heavyStep_laneState {tr : Track} (h : laneStateOk tr) (f : Front) (nv : Novelty) :
    laneStateOk (heavyStep cfg f nv tr) := by
  obtain ⟨-, hphi, hphiV, hoffset⟩ := h
  obtain ⟨hphi', hphiV'⟩ := heavyUpdate_prevphi_length f ⟨hphi, hphiV⟩
  refine ⟨heavyStep_heavyCtr_lt f nv tr, ?_, ?_, ?_⟩
  · rw [heavyStep_prevphi]
    split_ifs <;> assumption
  · rw [heavyStep_prevphiV]
    split_ifs <;> assumption
  · rw [heavyStep_havePeak, heavyStep_periodSet, heavyStep_phitarget, heavyStep_ptarget]
    split_ifs
    · obtain ⟨hpeak, hpt, hphit⟩ | ⟨-, -, hbelow⟩ := heavyUpdate_target f tr
      · rw [hpt, hphit, hpeak]
        exact fun hor => hoffset (.inr (hor.resolve_left Bool.false_ne_true))
      · exact fun _ => hbelow
    · exact hoffset

/-- The PLL locks only where there is a peak, and keeps the rest of the lane state (R287, R291). -/
theorem pllStep_laneState {tr : Track} (h : laneStateOk tr) (ran : Bool) : laneStateOk (pllStep cfg ran tr).1 := by
  obtain ⟨hctr, hphi, hphiV, hoffset⟩ := h
  have hset : (pllStep cfg ran tr).1.periodSet = true → tr.havePeak = true ∨ tr.periodSet = true := by
    unfold pllStep
    dsimp only
    split_ifs with hs hlock
    · exact fun _ => .inr hs
    · exact fun _ => .inl (Bool.and_eq_true_iff.1 hlock).2
    · exact fun h => .inr h
  refine ⟨by rwa [pllStep_heavyCtr], by rwa [pllStep_prevphi], by rwa [pllStep_prevphiV], ?_⟩
  rw [pllStep_havePeak, pllStep_phitarget, pllStep_ptarget]
  exact fun hor => hoffset (hor.elim .inl hset)

theorem holdStep_laneState {tr : Track} (h : laneStateOk tr) (b : Bool) : laneStateOk (holdStep b tr) := h

theorem confStep_laneState {tr : Track} (h : laneStateOk tr) (ran : Bool) : laneStateOk (confStep cfg ran tr) := h

/-- The tracker keeps its lane state at a tick. -/
theorem trackStage_laneState {tr : Track} (h : laneStateOk tr) (f : Front) (nv : Novelty) :
    laneStateOk (trackStage cfg f nv tr).1 := by
  have hsilence : laneStateOk (silenceStep cfg nv tr) := h
  rw [trackStage_eq]
  exact confStep_laneState (pllStep_laneState (holdStep_laneState (heavyStep_laneState hsilence f nv) _) _) _

theorem laneStateOk_reset : laneStateOk (Track.reset cfg) := by
  unfold laneStateOk
  decide +kernel

theorem effect_keeps_laneState {s t : State} (e : Effect s t) (h : laneStateOk s.track) : laneStateOk t.track :=
  effect_keeps_track (P := laneStateOk) (fun f nv _ hu => trackStage_laneState hu f nv) laneStateOk_reset e h

/-! ### The producer's part of the invariant -/

/-- What `stateLegal` says of the producer state alone. -/
def producerLegal (s : State) : Prop :=
  spectralLegal s ∧ frontShaped s.front ∧ trackInRange s.track ∧ periodBounded s.track ∧ laneStateOk s.track

theorem effect_keeps_producerLegal {s t : State} (e : Effect s t) (h : producerLegal s) : producerLegal t := by
  obtain ⟨hspec, hfront, htrack, hperiod, hlane⟩ := h
  exact ⟨effect_keeps_spectralLegal e hspec, effect_keeps_frontShaped e hfront, effect_keeps_trackInRange e htrack,
    effect_keeps_periodBounded e hperiod, effect_keeps_laneState e hlane⟩

/-- The staging frame of a tick from a legal producer state is in range (R95). -/
theorem runTick_frame_inRange {s : State} (h : producerLegal s) (ts : Word) (samples : List Half) :
    frameInRange (s.runTick cfg ts samples).frame := by
  obtain ⟨⟨htun, hfloor, hsmooth, -⟩, -, htrack, -, -⟩ := h
  have hraw := filterbank_within (removeDC cfg (assembleChunk cfg samples))
  have htrack' : trackInRange (tickValues cfg s samples).track := by
    rw [tickValues_track]
    exact trackStage_inRange htrack _ _
  obtain ⟨f, nv, wrap, hout⟩ := tickValues_out s samples
  rw [State.runTick_frame]
  exact tickFrame_inRange (removeDC_length cfg samples) (removeDC_within _) (filterbank_length _) hraw
    (postStage_within htun hraw hfloor hsmooth).2 (hout ▸ tempoOut_ok htrack' f nv wrap)

/-! ### The frame in the slot -/

/-- What a SNAPSHOT would accept shows the epoch, not 0, in the first word of the slot (R152). -/
theorem attempt_first_word {s : State}
    (h : attemptOk s.bus.wseq s.bus.wseq s.bus.epoch (s.bus.slot.words cfg) = true) :
    s.bus.slot.readWord 0 = s.bus.epoch ∧ s.bus.epoch ≠ 0 := by
  have hfirst : (s.bus.slot.words cfg).getD 0 0 = s.bus.slot.readWord 0 := rfl
  simp only [attemptOk, hfirst, Bool.and_eq_true, beq_iff_eq, bne_iff_ne] at h
  exact ⟨h.1.2, h.2⟩

theorem slotFrameOk_of_epoch_zero {s : State} (h : s.bus.epoch = 0) : slotFrameOk s :=
  fun hok _ => absurd h (attempt_first_word hok).2

/-- Between a writer's first write and its last nothing in the slot is accepted: the write sequence is odd, and then the
first word is not the epoch (R87). -/
theorem slotFrameOk_of_writerAt {s : State} {ws : List Word} {ph : WritePhase} (hat : writerAt s ws ph)
    (hph : ph ≠ .openSeq) (hfirst : ws.getD 0 0 = s.bus.epoch → s.bus.epoch = 0) : slotFrameOk s := by
  intro hok heven
  have hodd_absurd : seqOdd s.bus.wseq = true → frameInRange (decodeFrame cfg (s.bus.slot.words cfg)) := by
    intro hodd
    rw [hodd] at heven
    cases heven
  cases ph with
  | openSeq => exact absurd rfl hph
  | word w => exact hodd_absurd hat.1
  | closeSeq => exact hodd_absurd hat.1
  | epoch =>
    obtain ⟨hword, hne⟩ := attempt_first_word hok
    exact absurd (hfirst ((hat.2 0 (by omega)).symm.trans hword)) hne

/-- A slot that holds the words of a frame in range (R82, R95). -/
theorem slotFrameOk_of_slotHolds {s : State} {f : Frame} (hholds : slotHolds s (frameWords f) 219)
    (hlen : (frameWords f).length = 219) (hf : frameInRange f) : slotFrameOk s := by
  intro _ _
  rw [words_of_slotHolds hholds hlen]
  obtain ⟨-, -, -, hwave, hraw, hsmooth, hpitch, hband, -⟩ := id hf
  rwa [decodeFrame_frameWords hwave hraw.1 hsmooth.1 hpitch.1 hband.1]

theorem slotFrameOk_of_bus_eq {s t : State} (h : t.bus = s.bus) (hs : slotFrameOk s) : slotFrameOk t := by
  unfold slotFrameOk at hs ⊢
  rwa [h]

theorem stagedFrameOk_of_not_publishing {s : State} (h : ∀ ph st, s.ctl.busy ≠ some (.publish ph st)) :
    stagedFrameOk s := fun ph st hb => absurd hb (h ph st)

theorem not_publishing_of_notWriting {s : State} (h : notWriting s.ctl.busy) (ph : WritePhase) (st : Status) :
    s.ctl.busy ≠ some (.publish ph st) := fun hb => Bool.false_ne_true (h _ hb)

/-- The frame in the slot and the staging frame. -/
def framesOk (s : State) : Prop := slotFrameOk s ∧ stagedFrameOk s

theorem busUnmoved_keeps_framesOk {s t : State} (hmove : busUnmoved s t) (h : framesOk s) : framesOk t := by
  obtain ⟨hframe, hbus, -, hbusy⟩ := hmove
  refine ⟨slotFrameOk_of_bus_eq hbus h.1, ?_⟩
  obtain hbusy | ⟨-, hquiet⟩ := hbusy
  · intro ph st hb
    rw [hframe]
    exact h.2 ph st (hbusy ▸ hb)
  · exact stagedFrameOk_of_not_publishing (not_publishing_of_notWriting hquiet)

/-- A write of a publication keeps the frames in range: the last one shows the staging frame (R150). -/
theorem publish_access_framesOk {s u : State} {ph : WritePhase} {st : Status} {more : Option WritePhase}
    (hbus : busConsistent s) (h : framesOk s) (hb : s.ctl.busy = some (.publish ph st))
    (hw : s.writeAccess cfg (frameWords s.frame) s.frame.epoch ph = some (u, more)) :
    framesOk (u.afterWrite .control more (fun ph' => .publish ph' st) st) := by
  obtain ⟨hwf, -, hlen, hat, hepoch⟩ := (busConsistent_iff_publish hb).1 hbus
  obtain ⟨hframe, -⟩ := writeAccess_frame hw
  have hstaged := h.2 ph st hb
  obtain ⟨-, ⟨ph', rfl, hph', hat', he⟩ | ⟨rfl, -, hholds, -⟩⟩ := writeAccess_advances (fun _ _ => rfl) hwf hat hw
  · refine ⟨slotFrameOk_of_bus_eq (s := u) rfl (slotFrameOk_of_writerAt hat' hph' fun hfirst => ?_), fun _ _ _ => ?_⟩
    · have hnext : nextEpoch s.bus.epoch = s.bus.epoch := by rw [← hepoch, ← he, ← hfirst]; rfl
      exact absurd hnext (nextEpoch_ne_self _)
    · show frameInRange u.frame
      rwa [hframe]
  · exact ⟨slotFrameOk_of_bus_eq (s := u) rfl (slotFrameOk_of_slotHolds hholds hlen hstaged),
      stagedFrameOk_of_not_publishing (not_publishing_of_notWriting notWriting_none)⟩

/-- A write of a soft reset shows no frame (R155). -/
theorem clear_access_framesOk {s u : State} {ph : WritePhase} {more : Option WritePhase}
    (hbus : busConsistent s) (hb : s.ctl.busy = some (.clear ph))
    (hw : s.writeAccess cfg (zeroWords cfg) 0 ph = some (u, more)) :
    framesOk (u.afterWrite .control more .clear .ok) := by
  obtain ⟨hwf, -, -, hat⟩ := (busConsistent_iff_clear hb).1 hbus
  obtain ⟨-, ⟨ph', rfl, hph', hat', -⟩ | ⟨rfl, -, -, he⟩⟩ :=
    writeAccess_advances (fun w _ => zeroWords_getD w) hwf hat hw
  · refine ⟨slotFrameOk_of_bus_eq (s := u) rfl (slotFrameOk_of_writerAt hat' hph' Eq.symm), ?_⟩
    exact stagedFrameOk_of_not_publishing fun _ _ hb' => by cases hb'
  · exact ⟨slotFrameOk_of_bus_eq (s := u) rfl (slotFrameOk_of_epoch_zero he),
      stagedFrameOk_of_not_publishing (not_publishing_of_notWriting notWriting_none)⟩

theorem effect_keeps_framesOk {s t : State} (e : Effect s t) (hprod : producerLegal s) (hbus : busConsistent s)
    (h : framesOk s) : framesOk t := by
  obtain hmove | ⟨ph, st, u, more, hb, hw, rfl⟩ | ⟨ph, u, more, hb, hw, rfl⟩ | ⟨ts, samples, -, rfl⟩ | ⟨-, rfl⟩ | rfl :=
    effect_bus_cases hbus.2.1 e
  · exact busUnmoved_keeps_framesOk hmove h
  · exact publish_access_framesOk hbus h hb hw
  · exact clear_access_framesOk hbus hb hw
  · exact ⟨slotFrameOk_of_bus_eq (State.runTick_bus s ts samples) h.1, fun _ _ _ => runTick_frame_inRange hprod ts samples⟩
  · exact ⟨slotFrameOk_of_bus_eq (s := s) rfl h.1, stagedFrameOk_of_not_publishing fun _ _ hb => by cases hb⟩
  · exact ⟨slotFrameOk_of_epoch_zero rfl,
      stagedFrameOk_of_not_publishing (not_publishing_of_notWriting notWriting_none)⟩

/-! ### The whole invariant -/

theorem stateLegal_iff (s : State) : stateLegal s ↔ producerLegal s ∧ busConsistent s ∧ framesOk s := by
  unfold stateLegal producerLegal spectralLegal framesOk
  tauto

/-- Settles O54: every effect keeps the producer's ranges, the agreement of the bus and the frames' ranges. -/
theorem stateLegalKept : Obligations.StateLegalKept := by
  intro s t h hstep
  refine step_keeps (fun e hu => ?_) hstep h
  obtain ⟨hprod, hbus, hframes⟩ := (stateLegal_iff _).1 hu
  exact (stateLegal_iff _).2
    ⟨effect_keeps_producerLegal e hprod, effect_keeps_busConsistent e hbus, effect_keeps_framesOk e hprod hbus hframes⟩

end Sys2Proof.Machine
end

section
/-! PROOFS. Status reads (R43, R342), the word FLAGS (R44), and a step that runs a decoded command (R113). -/

namespace Sys2Proof.Machine

/-! ### Register reads -/

/-- A command word with a selector and no immediate, as its two bytes in place (R111). -/
theorem commandWord_sel (opc sel : Byte) :
    commandWord opc sel 0 = (opc.setWidth 32 <<< 24) ||| (sel.setWidth 32 <<< 16) := by
  apply BitVec.eq_of_getLsbD_eq
  intro i hi
  simp only [commandWord, BitVec.getLsbD_append, BitVec.getLsbD_or, BitVec.getLsbD_shiftLeft, BitVec.getLsbD_setWidth]
  split_ifs with himm hsel
  · simp [show i < 24 by omega, himm]
  · simp [show i < 24 by omega, hi, himm, show i - 16 < 32 by omega]
  · have hnosel : sel.getLsbD (i - 16) = false := BitVec.getLsbD_of_ge _ _ (by omega)
    simp [show ¬ i < 24 by omega, hi, hnosel, show i - 16 - 8 = i - 24 by omega, show i - 24 < 32 by omega]

/-- The response of a register read (R341, R342). -/
def readResponse (value : Option Word) : List Word :=
  match value with
  | some v => [0x00000001, v]
  | none => [0x03000000]

/-- A register read answers its response and changes nothing else. -/
theorem answerRead_onlyAnswered (s : State) (value : Option Word) :
    onlyAnswered s (s.answerRead value) (readResponse value) := by
  cases value with
  | none =>
    have h := respond_onlyAnswered s .illegal []
    rwa [response_empty] at h
  | some v =>
    have h := respond_onlyAnswered s .ok [v]
    rwa [response_one] at h

/-- Settles O4: the status register of the index, read and answered on the control port (R43, R342). -/
theorem getStatusReads : Obligations.GetStatusReads := by
  intro idx
  refine ⟨?_, fun s hc => ⟨s.answerRead (s.status? cfg idx.toNat), onControl_of_control hc _, ?_⟩⟩
  · rw [encode, commandWord_sel]
    rfl
  · have hread := answerRead_onlyAnswered s (s.status? cfg idx.toNat)
    generalize idx.toNat = n at hread ⊢
    rcases n with _ | _ | _ | _ | _ | _ | _ | _ | _ | _ | n <;> exact hread

/-! ### FLAGS -/

theorem getLsbD_bitAt (b : Bool) {i : Nat} (hi : i < 32) (j : Nat) : (bitAt b i).getLsbD j = (b && decide (i = j)) := by
  cases b
  · simp [bitAt]
  · simp [bitAt, BitVec.getLsbD_twoPow, hi]

/-- Each bit of FLAGS (R44). -/
theorem flagsWord_getLsbD (r : Bool) (f : Front) (t : Track) (j : Nat) : (flagsWord cfg r f t).getLsbD j =
    (r && decide (0 = j) || t.confOn && decide (1 = j) || t.silent && decide (2 = j)
      || decide (f.hmix.length = 512) && decide (3 = j) || decide (t.sel = 1) && decide (4 = j)
      || t.periodSet && decide (5 = j) || f.havePrev && decide (6 = j) || t.havePeak && decide (7 = j)
      || decide (8 ≤ j) && t.sel.getLsbD (j - 8)) := by
  have hlane : (t.sel.setWidth 32 <<< 8).getLsbD j = (decide (8 ≤ j) && t.sel.getLsbD (j - 8)) := by
    rw [BitVec.getLsbD_shiftLeft, BitVec.getLsbD_setWidth]
    by_cases hj : j < 32
    · by_cases hlow : j < 8
      · simp [hlow, show ¬ 8 ≤ j by omega]
      · simp [hlow, hj, show 8 ≤ j by omega, show j - 8 < 32 by omega]
    · have hnone : t.sel.getLsbD (j - 8) = false := BitVec.getLsbD_of_ge _ _ (by omega)
      simp [hnone]
  simp only [flagsWord, BitVec.getLsbD_or, hlane, getLsbD_bitAt, Nat.reduceLT]
  rfl

/-- Settles O5: the bits one by one, the lane in bits 9:8, and the word of the reset state (R44). -/
theorem flagsFields : Obligations.FlagsFields := by
  refine ⟨fun s => ?_, by decide +kernel⟩
  dsimp only
  have hbit := flagsWord_getLsbD s.readyLast s.front s.track
  refine ⟨(hbit 0).trans (by simp), (hbit 1).trans (by simp), (hbit 2).trans (by simp), (hbit 3).trans (by simp),
    (hbit 4).trans (by simp), (hbit 5).trans (by simp), (hbit 6).trans (by simp), (hbit 7).trans (by simp), ?_,
    fun i hi => ?_⟩
  · apply BitVec.eq_of_getLsbD_eq
    intro i hi
    rw [BitVec.getLsbD_extractLsb', hbit]
    simp [hi, show ∀ k, k < 8 → ¬ k = 8 + i by omega]
  · have hnone : s.track.sel.getLsbD (i - 8) = false := BitVec.getLsbD_of_ge _ _ (by omega)
    rw [hbit, hnone]
    simp [show ∀ k, k < 8 → ¬ k = i by omega]

/-! ### A step that runs a decoded command -/

/-- What the decoder reads is a whole command on the stream, admitted on the port (R113, R120). -/
theorem decode_eq_ok {control : Bool} {ws tail : List Word} {i : Instr} (h : decode control ws = .ok (i, tail)) :
    ∃ w payload, takeCommand ws = some (w, payload, tail) ∧ accept control w payload = .ok i := by
  unfold decode at h
  split at h
  · cases h
  · rename_i w payload rest htake
    split at h
    · rename_i i' haccept
      cases h
      exact ⟨w, payload, htake, haccept⟩
    · cases h

/-- The turn of an idle port with a decoded command runs the command. -/
theorem agentTurn_decoded {s : State} {p : Port} {ps : PortState} {i : Instr} {tail : List Word}
    (f : Instr → State → Host.Outcome State Fault Refusal) (hp : s.port? p = some ps) (hidle : ps.busy = none)
    (hd : decode p.isControl ps.cmds = .ok (i, tail)) : s.agentTurn cfg p f = f i (s.fetched p tail) := by
  obtain ⟨w, payload, htake, haccept⟩ := decode_eq_ok hd
  simp only [State.agentTurn, hp, hidle, State.start, htake, haccept]

/-- Settles O11: the move of the port, chosen or the first with something to do, runs the decoded command (R91, R113). -/
theorem stepRunsDecodedCommand : Obligations.StepRunsDecodedCommand := by
  intro s p ps i tail hp hidle hd
  refine ⟨fun rest hturns => ?_, fun hturns hnext => ?_⟩
  · have hp' : State.port? { s with turns := rest } p = some ps := by
      rw [← hp]; rcases p with _ | _ | r <;> rfl
    rw [step_eq, State.advance, hturns]
    exact agentTurn_decoded exec hp' hidle hd
  · rw [step_eq, State.advance, hturns, hnext]
    exact agentTurn_decoded exec hp hidle hd

end Sys2Proof.Machine
end

section
/-! PROOFS. The public slot and the transports (R81 to R84, R110): the bus agrees with the producer at every step, words
arrive in order through either transport, and each word of a frame holds the field of its layout. -/

namespace Sys2Proof.Machine

/-! ### The bus and the producer -/

/-- Settles O53: what every effect keeps, every step keeps. -/
theorem busConsistencyKept : Obligations.BusConsistencyKept :=
  fun _ _ h hstep => step_keeps effect_keeps_busConsistent hstep h

/-! ### Byte transports -/

/-- Reading the bytes of words gives the words (R83). -/
theorem wordsOfBytes_flatMap (ws : List Word) : wordsOfBytes (ws.flatMap bytesOfWord) = some ws := by
  induction ws with
  | nil => rfl
  | cons w ws ih =>
    simp only [List.flatMap_cons, bytesOfWord, List.cons_append, List.nil_append, wordsOfBytes] at ih ⊢
    simp only [ih, wordOfBytes_bytes]

/-- Bytes read as words exactly where they are whole words (R84). -/
theorem wordsOfBytes_isSome (bs : List Byte) : (wordsOfBytes bs).isSome = decide (bs.length % 4 = 0) := by
  fun_induction wordsOfBytes bs with
  | case1 => rfl
  | case2 b0 b1 b2 b3 rest ws hrest ih =>
    rw [hrest] at ih
    simpa [Nat.add_assoc] using ih
  | case3 b0 b1 b2 b3 rest hrest ih =>
    rw [hrest] at ih
    simpa [Nat.add_assoc] using ih
  | case4 bs hnil hlong =>
    match bs with
    | [] => exact absurd rfl hnil
    | [_] | [_, _] | [_, _, _] => rfl
    | b0 :: b1 :: b2 :: b3 :: rest => exact absurd rfl (hlong b0 b1 b2 b3 rest)

theorem wordsOfBytes_partial {bs : List Byte} (h : bs.length % 4 ≠ 0) : wordsOfBytes bs = none := by
  rw [← Option.not_isSome_iff_eq_none, wordsOfBytes_isSome, decide_eq_false h]
  exact Bool.false_ne_true

/-! ### Deliveries -/

/-- The step of a chosen move. -/
theorem step_of_turn {s : State} {m : Turn} {rest : List Turn} (h : s.turns = m :: rest) :
    step s = State.takeTurn cfg exec { s with turns := rest } m := by
  rw [step_eq, State.advance, h]

@[simp] theorem State.port?_withTurns (s : State) (ms : List Turn) (p : Port) :
    State.port? { s with turns := ms } p = s.port? p := by
  rcases p with _ | _ | r <;> rfl

theorem deliver_eq {s : State} {p : Port} {ps : PortState} (hp : s.port? p = some ps) (ws : List Word) :
    s.deliver p ws = .next (s.modPort p fun ps => { ps with cmds := ps.cmds ++ ws }) := by
  simp only [State.deliver, hp]

/-- A delivery in words, and one in the bytes of the words, put the words last on the stream (R83, R110). -/
theorem step_of_delivery {s : State} {p : Port} {ps : PortState} {ws : List Word} {rest : List Turn}
    (hp : s.port? p = some ps)
    (h : s.turns = .deliver p ws :: rest ∨ s.turns = .deliverBytes p (ws.flatMap bytesOfWord) :: rest) :
    step s = .next (State.modPort { s with turns := rest } p fun ps => { ps with cmds := ps.cmds ++ ws }) := by
  have hp' : State.port? { s with turns := rest } p = some ps := by rw [State.port?_withTurns, hp]
  obtain h | h := h
  · rw [step_of_turn h, State.takeTurn, deliver_eq hp']
  · rw [step_of_turn h, State.takeTurn, State.deliverBytes, wordsOfBytes_flatMap]
    exact deliver_eq hp' ws

/-- Settles O16: reading undoes serialising, and a delivery changes the stream of its port alone (R83, R84, R110). -/
theorem deliveredWordsArrive : Obligations.DeliveredWordsArrive := by
  refine ⟨wordsOfBytes_flatMap, wordsOfBytes_isSome, fun s p ps rest hp => ⟨fun ws hturns => ?_, fun bs hturns hbs => ?_⟩⟩
  · refine ⟨_, step_of_delivery hp hturns, ?_, fun q hq => ?_, sameProducer_refl s, ⟨fun _ => rfl, rfl, rfl⟩, rfl⟩
    · rw [State.port?_modPort_self, State.port?_withTurns, hp]
      rfl
    · rw [State.port?_modPort_other _ hq, State.port?_withTurns]
  · rw [step_of_turn hturns, State.takeTurn, State.deliverBytes, wordsOfBytes_partial hbs]

/-! ### The layout of a frame -/

/-- A word of packed samples holds the even sample low and the odd one high (R83, R115). -/
theorem packHalves_getD {l : List Half} {i : Nat} (hi : 2 * i + 1 < l.length) :
    (packHalves l).getD i 0 = l.getD (2 * i + 1) 0 ++ l.getD (2 * i) 0 := by
  induction i generalizing l with
  | zero =>
    match l with
    | a :: b :: rest => rfl
  | succ i ih =>
    match l with
    | a :: b :: rest =>
      rw [packHalves, List.getD_cons_succ, ih (by simp only [List.length_cons] at hi; omega)]
      rfl

theorem frameWord_wave {f : Frame} {i : Nat} (hi : 2 * i + 1 < f.wave.length) :
    frameWord f (2 + i) = f.wave.getD (2 * i + 1) 0 ++ f.wave.getD (2 * i) 0 := by
  have hpack : i < (packHalves f.wave).length := by rw [packHalves_length, sampleWords]; omega
  rw [← packHalves_getD hi, frameWord, frameWords, Nat.add_comm 2 i]
  simp only [List.append_assoc, List.cons_append, List.nil_append, List.getD_cons_succ]
  exact List.getD_append _ _ _ _ hpack

/-- An entry of an array taken out of a list of words is the word at its place. -/
theorem getD_of_take_drop {out l : List Word} {a n k : Nat} (h : (out.drop a).take n = l) (hk : k < n) :
    out.getD (a + k) 0 = l.getD k 0 := by
  rw [← h, List.getD_eq_getElem?_getD, List.getD_eq_getElem?_getD, List.getElem?_take_of_lt hk, List.getElem?_drop]

theorem getD_of_drop {out : List Word} {a k : Nat} {v : Word} (h : (out.drop a).getD k 0 = v) :
    out.getD (a + k) 0 = v := by
  rw [← h, List.getD_eq_getElem?_getD, List.getD_eq_getElem?_getD, List.getElem?_drop]

/-- Settles O22: each field of the decoded frame is the word at its place, and the decoded frame is the frame (R81). -/
theorem frameLayout : Obligations.FrameLayout := by
  intro f hwave hraw hsmooth hpitch hband
  have hlen : (frameWords f).length = 219 := by
    rw [frameWords_length_eq, hwave, hraw, hsmooth, hpitch, hband]
    rfl
  have hdecode := decodeFrame_frameWords hwave hraw hsmooth hpitch hband
  have field : ∀ {α : Type} (g : Frame → α), g (decodeFrame cfg (frameWords f)) = g f := fun g => congrArg g hdecode
  exact ⟨hlen, hdecode, field Frame.epoch, field Frame.timestamp, fun i hi => frameWord_wave (by omega),
    field Frame.peak, field Frame.rms,
    fun k hk => getD_of_take_drop (field Frame.raw) hk, fun k hk => getD_of_take_drop (field Frame.smooth) hk,
    fun k hk => getD_of_take_drop (field Frame.pitch) hk, fun k hk => getD_of_take_drop (field Frame.band) hk,
    getD_of_drop (field Frame.novelty), getD_of_drop (field Frame.bpm), getD_of_drop (field Frame.phase),
    getD_of_drop (field Frame.strength), getD_of_drop (field Frame.confidence), getD_of_drop (field Frame.silence),
    field Frame.beatFlag, field Frame.tempoReady, field Frame.pad⟩

end Sys2Proof.Machine
end

section
/-! PROOFS. What the move of one port can do: every command is answered or is one of three of port P, and a move leaves
the other ports and the moves to come alone (R86, R90, R365). A reader's move leaves the producer and the bus alone, and
the producer's does not depend on the readers. -/

namespace Sys2Proof.Machine

/-! ### What a command can be -/

theorem answerRead_eq_respond (s : State) (v : Option Word) : ∃ st data, s.answerRead v = s.respond st data := by
  cases v <;> exact ⟨_, _, rfl⟩

theorem answerSnapshot_eq_respond (s : State) (out : Option (List Word)) :
    ∃ st data, s.answerSnapshot out = s.respond st data := by
  cases out <;> exact ⟨_, _, rfl⟩

/-- A command of port P does on port P what it does, and is only answered elsewhere (R120 d, R365). -/
theorem onControl_cases {s u t : State} (h : s.onControl u = .next t) :
    (s.cur = .control ∧ t = u) ∨ ∃ st data, t = s.respond st data := by
  rw [onControl_eq, Host.Outcome.next.injEq] at h
  subst h
  cases s.cur with
  | control => exact .inl ⟨rfl, rfl⟩
  | reader r => exact .inr ⟨_, _, rfl⟩

theorem onControl_answerRead_cases {s t : State} {v : Option Word} (h : s.onControl (s.answerRead v) = .next t) :
    ∃ st data, t = s.respond st data := by
  obtain ⟨-, rfl⟩ | h := onControl_cases h
  · exact answerRead_eq_respond s v
  · exact h

theorem setTunable_cases {s t : State} {id : Byte} {v : Word} (h : execSetTunable id v s = .next t) :
    (∃ st data, t = s.respond st data) ∨ s.cur = .control ∧ ∃ id v, t = s.writeTunable id v := by
  obtain ⟨hc, rfl⟩ | h := onControl_cases h
  · split_ifs
    · exact .inr ⟨hc, _, _, rfl⟩
    · exact .inl ⟨_, _, rfl⟩
  · exact .inl h

/-- A command run whole is only answered, or it is one of the three of port P that change more. -/
theorem exec_cases {i : Instr} {s t : State} (h : exec i s = .next t) :
    (∃ st data, t = s.respond st data)
      ∨ s.cur = .control ∧ ((∃ id v, t = s.writeTunable id v)
        ∨ (∃ ts samples st, t = (s.runTick cfg ts samples).publish.raise st) ∨ t = (s.softReset cfg).raise .ok) := by
  cases i with
  | nop => cases h; exact .inl ⟨_, _, rfl⟩
  | softReset =>
    obtain ⟨hc, rfl⟩ | h := onControl_cases h
    · exact .inr ⟨hc, .inr (.inr rfl)⟩
    · exact .inl h
  | processChunk ts samples =>
    obtain ⟨hc, rfl⟩ | h := onControl_cases h
    · exact .inr ⟨hc, .inr (.inl ⟨_, _, _, rfl⟩)⟩
    · exact .inl h
  | setTunable id v => exact (setTunable_cases h).imp_right fun ⟨hc, hw⟩ => ⟨hc, .inl hw⟩
  | getTunable id => exact .inl (onControl_answerRead_cases h)
  | getStatus idx => exact .inl (onControl_answerRead_cases h)
  | snapshot k => cases h; exact .inl (answerSnapshot_eq_respond s _)
  | getEpoch => cases h; exact .inl ⟨_, _, rfl⟩

/-- A command begun is only answered, or it is a SNAPSHOT with its reads to come, or one of the three of port P. -/
theorem begin_cases {i : Instr} {s t : State} (h : s.begin cfg i = .next t) :
    (∃ st data, t = s.respond st data) ∨ (∃ left, t = s.inSnapshot left .seq1 0 [])
      ∨ s.cur = .control ∧ ((∃ id v, t = s.writeTunable id v)
        ∨ (∃ ts samples st, t = (s.runTick cfg ts samples).setBusy s.cur (some (.publish .openSeq st)))
        ∨ t = (s.resetProducer cfg).setBusy s.cur (some (.clear .openSeq))) := by
  cases i with
  | nop => cases h; exact .inl ⟨_, _, rfl⟩
  | softReset =>
    obtain ⟨hc, rfl⟩ | h := onControl_cases h
    · exact .inr (.inr ⟨hc, .inr (.inr rfl)⟩)
    · exact .inl h
  | processChunk ts samples =>
    obtain ⟨hc, rfl⟩ | h := onControl_cases h
    · exact .inr (.inr ⟨hc, .inr (.inl ⟨_, _, _, rfl⟩)⟩)
    · exact .inl h
  | setTunable id v => exact (setTunable_cases h).imp_right fun ⟨hc, hw⟩ => .inr ⟨hc, .inl hw⟩
  | getTunable id => exact .inl (onControl_answerRead_cases h)
  | getStatus idx => exact .inl (onControl_answerRead_cases h)
  | snapshot k =>
    cases h
    split_ifs
    · exact .inl ⟨_, _, rfl⟩
    · exact .inr (.inl ⟨_, rfl⟩)
  | getEpoch => cases h; exact .inl ⟨_, _, rfl⟩

/-! ### A move of one port leaves the others alone -/

/-- Every port but `p` is as it was, and so are the moves to come. -/
def onlyPort (p : Port) (s t : State) : Prop := t.turns = s.turns ∧ ∀ q, q ≠ p → t.port? q = s.port? q

theorem onlyPort_refl (p : Port) (s : State) : onlyPort p s s := ⟨rfl, fun _ _ => rfl⟩

theorem onlyPort.trans {p : Port} {s t u : State} (h : onlyPort p s t) (k : onlyPort p t u) : onlyPort p s u :=
  ⟨k.1.trans h.1, fun q hq => (k.2 q hq).trans (h.2 q hq)⟩

/-- What touches no port. -/
theorem onlyPort_of_ports_eq {s t : State} (hctl : t.ctl = s.ctl) (hreaders : t.readers = s.readers)
    (hturns : t.turns = s.turns) (p : Port) : onlyPort p s t := by
  refine ⟨hturns, fun q _ => ?_⟩
  rcases q with _ | _ | r
  · exact congrArg some hctl
  · rfl
  · exact congrArg (·[r]?) hreaders

theorem modPort_onlyPort (s : State) (p : Port) (f : PortState → PortState) : onlyPort p s (s.modPort p f) :=
  ⟨rfl, fun _ hq => State.port?_modPort_other s hq f⟩

theorem respond_onlyPort (s : State) (st : Status) (data : List Word) : onlyPort s.cur s (s.respond st data) :=
  modPort_onlyPort s s.cur _

theorem fetched_onlyPort (s : State) (p : Port) (rest : List Word) : onlyPort p s (s.fetched p rest) :=
  (modPort_onlyPort s p fun ps => { ps with cmds := rest }).trans (onlyPort_of_ports_eq rfl rfl rfl p)

theorem writeTunable_onlyPort (s : State) (id : Nat) (v : Word) : onlyPort s.cur s (s.writeTunable id v) := by
  unfold State.writeTunable
  dsimp only
  split_ifs
  · exact respond_onlyPort { s with tun := s.tun.set id (clampTunable id v) } _ _
  · exact respond_onlyPort (State.guardEvent { s with tun := s.tun.set id (clampTunable id v) }) _ _

theorem runTick_onlyPort (s : State) (ts : Word) (samples : List Half) (p : Port) :
    onlyPort p s (s.runTick cfg ts samples) :=
  onlyPort_of_ports_eq (State.runTick_ctl s ts samples) (State.runTick_readers s ts samples)
    (State.runTick_turns s ts samples) p

theorem writeSequence_onlyPort (s : State) (ws : List Word) (e : Word) (p : Port) :
    onlyPort p s (s.writeSequence ws e) :=
  onlyPort_of_ports_eq (State.writeSequence_ctl s ws e) (State.writeSequence_readers s ws e)
    (State.writeSequence_turns s ws e) p

@[simp] theorem State.publish_cur (s : State) : s.publish.cur = s.cur := State.writeSequence_cur s _ _

@[simp] theorem State.softReset_cur (s : State) : (s.softReset cfg).cur = s.cur :=
  State.writeSequence_cur (s.resetProducer cfg) _ _

/-- A command run whole leaves every port but its own alone. -/
theorem exec_onlyPort {i : Instr} {s t : State} (h : exec i s = .next t) : onlyPort s.cur s t := by
  obtain ⟨st, data, rfl⟩ | ⟨-, ⟨id, v, rfl⟩ | ⟨ts, samples, st, rfl⟩ | rfl⟩ := exec_cases h
  · exact respond_onlyPort s st data
  · exact writeTunable_onlyPort s id v
  · have hpub : onlyPort s.cur s (s.runTick cfg ts samples).publish :=
      (runTick_onlyPort s ts samples s.cur).trans (writeSequence_onlyPort _ _ _ s.cur)
    have hraise := respond_onlyPort (s.runTick cfg ts samples).publish st []
    rw [State.publish_cur, State.runTick_cur] at hraise
    exact hpub.trans hraise
  · have hreset : onlyPort s.cur s (s.softReset cfg) := writeSequence_onlyPort (s.resetProducer cfg) _ _ s.cur
    have hraise := respond_onlyPort (s.softReset cfg) .ok []
    rw [State.softReset_cur] at hraise
    exact hreset.trans hraise

/-- A command begun leaves every port but its own alone. -/
theorem begin_onlyPort {i : Instr} {s t : State} (h : s.begin cfg i = .next t) : onlyPort s.cur s t := by
  obtain ⟨st, data, rfl⟩ | ⟨left, rfl⟩ | ⟨-, ⟨id, v, rfl⟩ | ⟨ts, samples, st, rfl⟩ | rfl⟩ := begin_cases h
  · exact respond_onlyPort s st data
  · exact modPort_onlyPort s s.cur _
  · exact writeTunable_onlyPort s id v
  · exact (runTick_onlyPort s ts samples s.cur).trans (modPort_onlyPort _ s.cur _)
  · exact modPort_onlyPort (s.resetProducer cfg) s.cur _

/-- A bus access leaves every port but its own alone. -/
theorem busAccess_onlyPort {s t : State} {p : Port} {b : Busy} (h : s.busAccess cfg p b = .next t) :
    onlyPort p s t := by
  have hafter : ∀ (u : State) more busy st, onlyPort p u (u.afterWrite p more busy st) := by
    intro u more busy st
    cases more with
    | none => exact (modPort_onlyPort u p _).trans (modPort_onlyPort _ p _)
    | some ph => exact modPort_onlyPort u p _
  have hwrite : ∀ {ws e ph u more}, s.writeAccess cfg ws e ph = some (u, more) → onlyPort p s u := by
    intro ws e ph u more hw
    obtain ⟨-, rfl, -⟩ | ⟨w, -, -, rfl, -⟩ | ⟨-, rfl, -⟩ | ⟨-, rfl, -⟩ := writeAccess_cases hw <;>
      exact onlyPort_of_ports_eq rfl rfl rfl p
  obtain ⟨ph, st, u, more, -, hw, rfl⟩ | ⟨ph, u, more, -, hw, rfl⟩ | ⟨left, ph, s1, out, -, hr⟩ := busAccess_cases h
  · exact (hwrite hw).trans (hafter u more _ _)
  · exact (hwrite hw).trans (hafter u more _ _)
  · obtain ⟨_, _, _, _, rfl⟩ | ⟨_, _, rfl⟩ := readAccess_cases hr
    · exact modPort_onlyPort s p _
    · exact (modPort_onlyPort s p _).trans (modPort_onlyPort _ p _)

/-- A turn of a port's agent leaves every other port alone, if the commands it runs do. -/
theorem agentTurn_onlyPort {f : Instr → State → Host.Outcome State Fault Refusal} {s t : State} {p : Port}
    (hf : ∀ {i : Instr} {u v : State}, f i u = .next v → onlyPort u.cur u v) (h : s.agentTurn cfg p f = .next t) :
    onlyPort p s t := by
  obtain ⟨ps, -, ⟨b, -, ha⟩ | ⟨-, -, rfl⟩ | ⟨w, payload, rest, why, -, -, -, rfl⟩ | ⟨w, payload, rest, i, -, -, -, hi⟩⟩ :=
    agentTurn_cases h
  · exact busAccess_onlyPort ha
  · exact onlyPort_refl p t
  · exact (fetched_onlyPort s p rest).trans (respond_onlyPort (s.fetched p rest) _ _)
  · exact (fetched_onlyPort s p rest).trans (hf hi)

/-- The move of a port leaves every other port alone (R86). -/
theorem takeTurn_onlyPort {s t : State} {m : Turn} {p : Port} (hm : m = .run p ∨ m = .access p)
    (h : s.takeTurn cfg exec m = .next t) : onlyPort p s t := by
  obtain rfl | rfl := hm
  · exact agentTurn_onlyPort exec_onlyPort h
  · exact agentTurn_onlyPort begin_onlyPort h

/-! ### A reader's move and the producer -/

/-- The producer state and the bus are the same. -/
def sameBlock (s t : State) : Prop := sameProducer s t ∧ t.bus = s.bus

theorem sameBlock.trans {s t u : State} (h : sameBlock s t) (k : sameBlock t u) : sameBlock s u := by
  obtain ⟨⟨htun, htick, hguard, hready, hpost, hraw, hfront, htrack, hframe⟩, hbus⟩ := k
  obtain ⟨⟨htun', htick', hguard', hready', hpost', hraw', hfront', htrack', hframe'⟩, hbus'⟩ := h
  exact ⟨⟨htun.trans htun', htick.trans htick', hguard.trans hguard', hready.trans hready', hpost.trans hpost',
    hraw.trans hraw', hfront.trans hfront', htrack.trans htrack', hframe.trans hframe'⟩, hbus.trans hbus'⟩

theorem modPort_sameBlock (s : State) (p : Port) (f : PortState → PortState) : sameBlock s (s.modPort p f) :=
  ⟨sameProducer_refl s, rfl⟩

theorem fetched_sameBlock (s : State) (p : Port) (rest : List Word) : sameBlock s (s.fetched p rest) :=
  ⟨sameProducer_refl s, rfl⟩

/-- A command on a reader port changes nothing of the producer or the bus (R365). -/
theorem exec_sameBlock {i : Instr} {s t : State} (hc : s.cur ≠ .control) (h : exec i s = .next t) : sameBlock s t := by
  obtain ⟨st, data, rfl⟩ | ⟨hcontrol, -⟩ := exec_cases h
  · exact modPort_sameBlock s s.cur _
  · exact absurd hcontrol hc

theorem begin_sameBlock {i : Instr} {s t : State} (hc : s.cur ≠ .control) (h : s.begin cfg i = .next t) :
    sameBlock s t := by
  obtain ⟨st, data, rfl⟩ | ⟨left, rfl⟩ | ⟨hcontrol, -⟩ := begin_cases h
  · exact modPort_sameBlock s s.cur _
  · exact modPort_sameBlock s s.cur _
  · exact absurd hcontrol hc

/-- A read of a SNAPSHOT changes nothing of the producer or the bus (R88). -/
theorem readAccess_sameBlock {s t : State} {p : Port} {left : Nat} {s1 : Word} {out : List Word} {ph : ReadPhase}
    (h : s.readAccess cfg p left s1 out ph = some t) : sameBlock s t := by
  obtain ⟨_, _, _, _, rfl⟩ | ⟨_, _, rfl⟩ := readAccess_cases h <;> exact ⟨sameProducer_refl s, rfl⟩

theorem busAccess_sameBlock {s t : State} {p : Port} {b : Busy} (hb : b.reads = true)
    (h : s.busAccess cfg p b = .next t) : sameBlock s t := by
  obtain ⟨ph, st, u, more, rfl, -⟩ | ⟨ph, u, more, rfl, -⟩ | ⟨left, ph, s1, out, rfl, hr⟩ := busAccess_cases h
  · cases hb
  · cases hb
  · exact readAccess_sameBlock hr

/-- A turn of a reader's agent changes nothing of the producer or the bus, if the commands it runs do not. -/
theorem agentTurn_sameBlock {f : Instr → State → Host.Outcome State Fault Refusal} {s t : State} {r : Nat}
    (hf : ∀ {i : Instr} {u v : State}, u.cur ≠ .control → f i u = .next v → sameBlock u v) (hro : readersOnlyRead s)
    (h : s.agentTurn cfg (.reader r) f = .next t) : sameBlock s t := by
  obtain ⟨ps, hp, ⟨b, hb, ha⟩ | ⟨-, -, rfl⟩ | ⟨w, payload, rest, why, -, -, -, rfl⟩ |
    ⟨w, payload, rest, i, -, -, -, hi⟩⟩ := agentTurn_cases h
  · refine busAccess_sameBlock (hro ps ?_ b hb) ha
    rcases r with _ | r
    · cases hp
    · exact List.mem_of_getElem? hp
  · exact ⟨sameProducer_refl t, rfl⟩
  · exact (fetched_sameBlock s _ rest).trans (modPort_sameBlock _ _ _)
  · exact (fetched_sameBlock s _ rest).trans (hf (fun hc => Port.noConfusion hc) hi)

/-! ### The producer's move with other readers -/

/-- `s` with other reader ports. -/
def State.withReaders (s : State) (rs : List PortState) : State := { s with readers := rs }

theorem writeSlots_withReaders (s : State) (rs : List PortState) (w : Nat) (ws : List Word) :
    (s.withReaders rs).writeSlots w ws = (s.writeSlots w ws).withReaders rs := by
  induction ws generalizing s w with
  | nil => rfl
  | cons v rest ih => exact ih (s.writeSlot w v) (w + 1)

theorem writeSequence_withReaders (s : State) (rs : List PortState) (ws : List Word) (e : Word) :
    (s.withReaders rs).writeSequence ws e = (s.writeSequence ws e).withReaders rs := by
  have hslots := writeSlots_withReaders s.bumpSeq rs 0 ws
  exact congrArg (fun u : State => u.bumpSeq.setEpoch e) hslots

theorem runTick_withReaders (s : State) (rs : List PortState) (ts : Word) (samples : List Half) :
    (s.withReaders rs).runTick cfg ts samples = (s.runTick cfg ts samples).withReaders rs := by
  have hvalues : tickValues cfg (s.withReaders rs) samples = tickValues cfg s samples := rfl
  rw [runTick_eq, runTick_eq, hvalues]
  generalize tickValues cfg s samples = v
  rfl

theorem respond_withReaders {s : State} (hc : s.cur = .control) (rs : List PortState) (st : Status) (data : List Word) :
    (s.withReaders rs).respond st data = (s.respond st data).withReaders rs := by
  have hc' : (s.withReaders rs).cur = .control := hc
  rw [State.respond, State.respond, hc, hc']
  rfl

theorem writeTunable_withReaders {s : State} (hc : s.cur = .control) (rs : List PortState) (id : Nat) (v : Word) :
    (s.withReaders rs).writeTunable id v = (s.writeTunable id v).withReaders rs := by
  unfold State.writeTunable
  dsimp only
  split_ifs
  · exact respond_withReaders (s := { s with tun := s.tun.set id (clampTunable id v) }) hc rs _ _
  · exact respond_withReaders (s := State.guardEvent { s with tun := s.tun.set id (clampTunable id v) }) hc rs _ _

theorem answerRead_withReaders {s : State} (hc : s.cur = .control) (rs : List PortState) (v : Option Word) :
    (s.withReaders rs).answerRead v = (s.answerRead v).withReaders rs := by
  cases v <;> exact respond_withReaders hc rs _ _

theorem answerSnapshot_withReaders {s : State} (hc : s.cur = .control) (rs : List PortState)
    (out : Option (List Word)) :
    (s.withReaders rs).answerSnapshot out = (s.answerSnapshot out).withReaders rs := by
  cases out <;> exact respond_withReaders hc rs _ _

/-- Attempts read the bus alone (R152). -/
theorem attempts_of_bus_eq {s t : State} (h : t.bus = s.bus) (k : Nat) : t.attempts cfg k = s.attempts cfg k := by
  have hone : t.attempt cfg = s.attempt cfg := by simp only [State.attempt, h]
  induction k with
  | zero => rfl
  | succ k ih => simp only [State.attempts, hone, ih]

/-- A run of `f` on port P gives the same with any other readers. -/
def ignoresReaders (f : State → Host.Outcome State Fault Refusal) : Prop :=
  ∀ (s t : State) (rs : List PortState), s.cur = .control → f s = .next t →
    f (s.withReaders rs) = .next (t.withReaders rs)

/-- A command of port P that does `g` there. -/
theorem onControl_ignoresReaders {g : State → State}
    (hg : ∀ (s : State) (rs : List PortState), s.cur = .control → g (s.withReaders rs) = (g s).withReaders rs) :
    ignoresReaders fun s => s.onControl (g s) := by
  intro s t rs hc h
  have hc' : (s.withReaders rs).cur = .control := hc
  simp only [onControl_of_control hc, Host.Outcome.next.injEq] at h
  simp only [onControl_of_control hc', hg s rs hc, h]

/-- A command that does `g`, on port P and on any other. -/
theorem next_ignoresReaders {g : State → State}
    (hg : ∀ (s : State) (rs : List PortState), s.cur = .control → g (s.withReaders rs) = (g s).withReaders rs) :
    ignoresReaders fun s => .next (g s) := by
  intro s t rs hc h
  cases h
  exact congrArg Host.Outcome.next (hg s rs hc)

theorem execSetTunable_ignoresReaders (id : Byte) (v : Word) : ignoresReaders (execSetTunable id v) := by
  refine onControl_ignoresReaders fun s rs hc => ?_
  split_ifs
  · exact writeTunable_withReaders hc rs _ _
  · exact respond_withReaders hc rs _ _

theorem execGetTunable_ignoresReaders (id : Byte) : ignoresReaders (execGetTunable id) :=
  onControl_ignoresReaders fun _ rs hc => answerRead_withReaders hc rs _

theorem getStatus_ignoresReaders (idx : Byte) : ignoresReaders (getStatusWith cfg idx) :=
  onControl_ignoresReaders fun s rs hc => by
    have hstatus : (s.withReaders rs).status? cfg idx.toNat = s.status? cfg idx.toNat := by
      unfold State.status?
      rfl
    rw [hstatus, answerRead_withReaders hc]

theorem getEpoch_ignoresReaders : ignoresReaders execGetEpoch :=
  next_ignoresReaders fun _ rs hc => respond_withReaders hc rs _ _

theorem nop_ignoresReaders : ignoresReaders execNop :=
  next_ignoresReaders fun _ rs hc => respond_withReaders hc rs _ _

/-- A command run whole on port P does the same with any other readers (R365). -/
theorem exec_ignoresReaders (i : Instr) : ignoresReaders (exec i) := by
  cases i with
  | nop => exact nop_ignoresReaders
  | softReset =>
    refine onControl_ignoresReaders fun s rs hc => ?_
    have hreset : (s.withReaders rs).softReset cfg = (s.softReset cfg).withReaders rs :=
      writeSequence_withReaders (s.resetProducer cfg) rs _ _
    rw [hreset]
    exact respond_withReaders (s := s.softReset cfg) (by rw [State.softReset_cur, hc]) rs _ _
  | processChunk ts samples =>
    refine onControl_ignoresReaders fun s rs hc => ?_
    have hpub : ((s.runTick cfg ts samples).withReaders rs).publish
        = (s.runTick cfg ts samples).publish.withReaders rs := writeSequence_withReaders _ rs _ _
    rw [runTick_withReaders, hpub]
    exact respond_withReaders (by rw [State.publish_cur, State.runTick_cur, hc]) rs _ _
  | setTunable id v => exact execSetTunable_ignoresReaders id v
  | getTunable id => exact execGetTunable_ignoresReaders id
  | getStatus idx => exact getStatus_ignoresReaders idx
  | snapshot k =>
    refine next_ignoresReaders fun s rs hc => ?_
    rw [attempts_of_bus_eq (s := s) (t := s.withReaders rs) rfl, answerSnapshot_withReaders hc]
  | getEpoch => exact getEpoch_ignoresReaders

theorem setBusy_withReaders {s : State} (hc : s.cur = .control) (rs : List PortState) (b : Option Busy) :
    (s.withReaders rs).setBusy s.cur b = (s.setBusy s.cur b).withReaders rs := by
  rw [hc]
  rfl

/-- A command begun on port P does the same with any other readers. -/
theorem begin_ignoresReaders (i : Instr) : ignoresReaders (State.begin cfg i) := by
  cases i with
  | nop => exact nop_ignoresReaders
  | softReset => exact onControl_ignoresReaders fun s rs hc => setBusy_withReaders (s := s.resetProducer cfg) hc rs _
  | processChunk ts samples =>
    refine onControl_ignoresReaders fun s rs hc => ?_
    have hc' : (s.runTick cfg ts samples).cur = .control := by rw [State.runTick_cur, hc]
    have hbusy := setBusy_withReaders hc' rs (some (.publish .openSeq (chunkStatus cfg samples)))
    rw [runTick_withReaders]
    rwa [State.runTick_cur] at hbusy
  | setTunable id v => exact execSetTunable_ignoresReaders id v
  | getTunable id => exact execGetTunable_ignoresReaders id
  | getStatus idx => exact getStatus_ignoresReaders idx
  | snapshot k =>
    refine next_ignoresReaders fun s rs hc => ?_
    split_ifs
    · exact respond_withReaders hc rs _ _
    · exact setBusy_withReaders hc rs _
  | getEpoch => exact getEpoch_ignoresReaders

theorem failAttempt_withReaders (s : State) (rs : List PortState) (left : Nat) :
    (s.withReaders rs).failAttempt .control left = (s.failAttempt .control left).withReaders rs := by
  unfold State.failAttempt
  split_ifs <;> rfl

theorem readAccess_withReaders (s : State) (rs : List PortState) (left : Nat) (s1 : Word) (out : List Word)
    (ph : ReadPhase) : (s.withReaders rs).readAccess cfg .control left s1 out ph
      = (s.readAccess cfg .control left s1 out ph).map (·.withReaders rs) := by
  have hbus : (s.withReaders rs).bus = s.bus := rfl
  cases ph with
  | seq1 =>
    simp only [State.readAccess, failAttempt_withReaders, hbus]
    split_ifs <;> rfl
  | word w =>
    simp only [State.readAccess, hbus]
    split_ifs <;> rfl
  | seq2 => rfl
  | epoch s2 =>
    simp only [State.readAccess, failAttempt_withReaders, hbus]
    split_ifs <;> rfl

/-- A bus access of port P does the same with any other readers (R90). -/
theorem busAccess_withReaders {s t : State} {b : Busy} (h : s.busAccess cfg .control b = .next t)
    (rs : List PortState) : (s.withReaders rs).busAccess cfg .control b = .next (t.withReaders rs) := by
  have hwrite : ∀ {ws e ph u more}, s.writeAccess cfg ws e ph = some (u, more) →
      (s.withReaders rs).writeAccess cfg ws e ph = some (u.withReaders rs, more) := by
    intro ws e ph u more hw
    obtain ⟨rfl, rfl, rfl⟩ | ⟨w, rfl, hlt, rfl, rfl⟩ | ⟨rfl, rfl, rfl⟩ | ⟨rfl, rfl, rfl⟩ := writeAccess_cases hw
    · rfl
    · exact if_pos hlt
    · rfl
    · rfl
  have hafter : ∀ (u : State) more busy st,
      (u.withReaders rs).afterWrite .control more busy st = (u.afterWrite .control more busy st).withReaders rs := by
    intro u more busy st
    cases more <;> rfl
  obtain ⟨ph, st, u, more, rfl, hw, rfl⟩ | ⟨ph, u, more, rfl, hw, rfl⟩ | ⟨left, ph, s1, out, rfl, hr⟩ := busAccess_cases h
  · have hw' : (s.withReaders rs).writeAccess cfg (frameWords (s.withReaders rs).frame) (s.withReaders rs).frame.epoch ph
        = some (u.withReaders rs, more) := hwrite hw
    simp only [State.busAccess, hw', hafter]
  · simp only [State.busAccess, hwrite hw, hafter]
  · simp only [State.busAccess, readAccess_withReaders, hr, Option.map_some]

/-- A turn of port P's agent does the same with any other readers, if the commands it runs do. -/
theorem agentTurn_withReaders {f : Instr → State → Host.Outcome State Fault Refusal} {s t : State}
    (hf : ∀ i, ignoresReaders (f i)) (h : s.agentTurn cfg .control f = .next t) (rs : List PortState) :
    (s.withReaders rs).agentTurn cfg .control f = .next (t.withReaders rs) := by
  have hport : (s.withReaders rs).port? .control = s.port? .control := rfl
  obtain ⟨ps, hp, ⟨b, hb, ha⟩ | ⟨hidle, htake, rfl⟩ | ⟨w, payload, rest, why, hidle, htake, haccept, rfl⟩ |
    ⟨w, payload, rest, i, hidle, htake, haccept, hi⟩⟩ := agentTurn_cases h
  · simp only [State.agentTurn, hport, hp, hb, busAccess_withReaders ha rs]
  · simp only [State.agentTurn, hport, hp, hidle, State.start, htake]
  · simp only [State.agentTurn, hport, hp, hidle, State.start, htake, haccept]
    rfl
  · simp only [State.agentTurn, hport, hp, hidle, State.start, htake, haccept]
    exact hf i (s.fetched .control rest) t rs rfl hi

/-- The move of port P does the same with any other readers. -/
theorem takeTurn_withReaders {s t : State} {m : Turn} (hm : m = .run .control ∨ m = .access .control)
    (h : s.takeTurn cfg exec m = .next t) (rs : List PortState) :
    (s.withReaders rs).takeTurn cfg exec m = .next (t.withReaders rs) := by
  obtain rfl | rfl := hm
  · exact agentTurn_withReaders exec_ignoresReaders h rs
  · exact agentTurn_withReaders begin_ignoresReaders h rs

/-- Reader ports that are each as they were. -/
theorem onlyPort.readers_eq {s t : State} (h : onlyPort .control s t) : t.readers = s.readers :=
  List.ext_getElem? fun r => h.2 (.reader (r + 1)) fun hr => Port.noConfusion hr

/-- Settles O60: a reader's move is a read of the bus or an answer, and port P's move reads no reader port (R90, R333,
R365). -/
theorem producerAndReadersApart : Obligations.ProducerAndReadersApart := by
  refine ⟨fun s t r m rest hro hturns hm hstep => ?_, fun s t m rest rs hturns hm hstep => ?_⟩
  · rw [step_of_turn hturns] at hstep
    have hsame : sameBlock { s with turns := rest } t := by
      obtain rfl | rfl := hm
      · exact agentTurn_sameBlock exec_sameBlock hro hstep
      · exact agentTurn_sameBlock begin_sameBlock hro hstep
    obtain ⟨hproducer, hbus⟩ := hsame
    have hports := (takeTurn_onlyPort hm hstep).2
    refine ⟨hproducer, ⟨fun a => by rw [hbus], by rw [hbus], by rw [hbus]⟩, fun q hq => ?_⟩
    rw [hports q hq, State.port?_withTurns]
  · have hmove := hstep
    rw [step_of_turn hturns] at hmove
    refine ⟨(takeTurn_onlyPort hm hmove).readers_eq, ?_⟩
    rw [step_of_turn (s := { s with readers := rs }) hturns]
    exact takeTurn_withReaders hm hmove rs

end Sys2Proof.Machine
end

section
/-! PROOFS. SNAPSHOT one bus access at a time (R88, R152): what each read does, that the accesses end, that a copy which
validates is the slot as it was at its first read (R154), and so that its frame is in range (R95). -/

namespace Sys2Proof.Machine

/-! ### One read -/

/-- A read that goes on in its attempt, on the bus `m`: from a phase, `s1` and the words read so far to the next (R152). -/
inductive ReadStep (m : Bus) : ReadPhase → Word → List Word → ReadPhase → Word → List Word → Prop where
  | first (s1 : Word) (out : List Word) : seqOdd m.wseq = false → ReadStep m .seq1 s1 out (.word 0) m.wseq []
  | word {w : Nat} (s1 : Word) (out : List Word) : w + 1 < 219 →
      ReadStep m (.word w) s1 out (.word (w + 1)) s1 (out ++ [m.slot.readWord w])
  | lastWord (s1 : Word) (out : List Word) :
      ReadStep m (.word 218) s1 out .seq2 s1 (out ++ [m.slot.readWord 218])
  | seq2 (s1 : Word) (out : List Word) : ReadStep m .seq2 s1 out (.epoch m.wseq) s1 out

/-- The first and the last read of an attempt, those at which it can fail (R152). -/
def ReadPhase.mayFail : ReadPhase → Prop
  | .seq1 | .epoch _ => True
  | .word _ | .seq2 => False

/-- A failed attempt ends the SNAPSHOT, or leaves it at the first read of the next attempt. -/
theorem failAttempt_cases (s : State) (p : Port) (left : Nat) :
    (∃ st data, s.failAttempt p left = (s.setBusy p none).respondOn p st data)
      ∨ (1 < left ∧ s.failAttempt p left = s.setBusy p (some (.snap (left - 1) .seq1 0 []))) := by
  unfold State.failAttempt
  split_ifs with hleft
  · exact .inl ⟨_, _, rfl⟩
  · exact .inr ⟨by omega, rfl⟩

theorem readAccess_word (s : State) (p : Port) (left : Nat) (s1 : Word) (out : List Word) {w : Nat} (hw : w < 219) :
    s.readAccess cfg p left s1 out (.word w) = some (s.setBusy p (some (.snap left
      (if w + 1 < 219 then .word (w + 1) else .seq2) s1 (out ++ [s.bus.slot.readWord w])))) := by
  have hslot : slotWords cfg = 219 := rfl
  simp only [State.readAccess, hslot, if_pos hw]

/-- A read of a word of the slot, or one that reads no word, ends the SNAPSHOT with a response, goes on to the next
attempt, or goes on in its attempt (R152). -/
theorem readAccess_outcome {p : Port} {ph : ReadPhase} (hword : ∀ w, ph = .word w → w < 219) (s : State) (left : Nat)
    (s1 : Word) (out : List Word) : ∃ t, s.readAccess cfg p left s1 out ph = some t ∧
      ((∃ st data, t = (s.setBusy p none).respondOn p st data)
        ∨ (1 < left ∧ ph.mayFail ∧ t = s.setBusy p (some (.snap (left - 1) .seq1 0 [])))
        ∨ ∃ ph' s1' out', ReadStep s.bus ph s1 out ph' s1' out'
            ∧ t = s.setBusy p (some (.snap left ph' s1' out'))) := by
  have hfail := failAttempt_cases s p left
  cases ph with
  | seq1 =>
    by_cases hodd : seqOdd s.bus.wseq = true
    · exact ⟨_, if_pos hodd, hfail.imp_right fun ⟨hleft, ht⟩ => .inl ⟨hleft, trivial, ht⟩⟩
    · exact ⟨_, if_neg hodd, .inr (.inr ⟨_, _, _, .first _ _ (Bool.eq_false_of_not_eq_true hodd), rfl⟩)⟩
  | word w =>
    refine ⟨_, readAccess_word s p left s1 out (hword w rfl), .inr (.inr ⟨_, _, _, ?_, rfl⟩)⟩
    have hw := hword w rfl
    split_ifs with hmore
    · exact .word _ _ hmore
    · obtain rfl : w = 218 := by omega
      exact .lastWord _ _
  | seq2 => exact ⟨_, rfl, .inr (.inr ⟨_, _, _, .seq2 _ _, rfl⟩)⟩
  | epoch s2 =>
    by_cases hok : attemptOk s1 s2 s.bus.epoch out = true
    · exact ⟨_, if_pos hok, .inl ⟨_, _, rfl⟩⟩
    · exact ⟨_, if_neg hok, hfail.imp_right fun ⟨hleft, ht⟩ => .inl ⟨hleft, trivial, ht⟩⟩

/-- Only the words of the slot are read (R82). -/
theorem readAccess_word_lt {s t : State} {p : Port} {left : Nat} {s1 : Word} {out : List Word} {ph : ReadPhase}
    (h : s.readAccess cfg p left s1 out ph = some t) : ∀ w, ph = .word w → w < 219 := by
  rintro w rfl
  have hslot : slotWords cfg = 219 := rfl
  simp only [State.readAccess, hslot] at h
  split_ifs at h with hw <;> exact hw

/-! ### The accesses of a SNAPSHOT run out -/

theorem readsLeft_seq1 (left : Nat) (s1 : Word) (out : List Word) :
    (Busy.snap left .seq1 s1 out).readsLeft = 222 * left := rfl
theorem readsLeft_word (left w : Nat) (s1 : Word) (out : List Word) :
    (Busy.snap left (.word w) s1 out).readsLeft = 222 * left - 1 - w := rfl
theorem readsLeft_seq2 (left : Nat) (s1 : Word) (out : List Word) :
    (Busy.snap left .seq2 s1 out).readsLeft = 222 * left - 220 := rfl
theorem readsLeft_epoch (left : Nat) (s1 s2 : Word) (out : List Word) :
    (Busy.snap left (.epoch s2) s1 out).readsLeft = 222 * left - 221 := rfl

/-- Going on in an attempt leaves fewer accesses. -/
theorem ReadStep.readsLeft_lt {m : Bus} {ph ph' : ReadPhase} {s1 s1' : Word} {out out' : List Word}
    (h : ReadStep m ph s1 out ph' s1' out') {left : Nat} (hleft : 1 ≤ left) :
    (Busy.snap left ph' s1' out').readsLeft < (Busy.snap left ph s1 out).readsLeft := by
  cases h with
  | first => rw [readsLeft_word, readsLeft_seq1]; omega
  | word _ _ hmore => rw [readsLeft_word, readsLeft_word]; omega
  | lastWord => rw [readsLeft_seq2, readsLeft_word]; omega
  | seq2 => rw [readsLeft_epoch, readsLeft_seq2]; omega

/-- Going on in an attempt, the next read is within the slot (R82). -/
theorem ReadStep.word_lt {m : Bus} {ph : ReadPhase} {s1 s1' : Word} {out out' : List Word} {w : Nat}
    (h : ReadStep m ph s1 out (.word w) s1' out') : w < 219 := by
  cases h with
  | first => decide
  | word _ _ hmore => exact hmore

/-- The next attempt has fewer accesses than a failed one, its last read included. -/
theorem readsLeft_next_attempt {ph : ReadPhase} (hph : ph.mayFail) {left : Nat} (hleft : 1 < left) (s1 : Word)
    (out : List Word) :
    (Busy.snap (left - 1) .seq1 0 []).readsLeft < (Busy.snap left ph s1 out).readsLeft := by
  rw [readsLeft_seq1]
  cases ph with
  | seq1 => rw [readsLeft_seq1]; omega
  | epoch s2 => rw [readsLeft_epoch]; omega
  | word w => exact hph.elim
  | seq2 => exact hph.elim

theorem respondOn_after_setBusy {s : State} {p : Port} {ps : PortState} (hp : s.port? p = some ps) (st : Status)
    (data : List Word) :
    ((s.setBusy p none).respondOn p st data).port? p
      = some { ps with busy := none, resp := ps.resp ++ response st data } := by
  rw [State.respondOn, State.port?_modPort_self, State.port?_setBusy hp]
  rfl

/-- The turn of a port with a command in progress is its next bus access (R86). -/
theorem agentTurn_busy {s : State} {p : Port} {ps : PortState} {b : Busy} (hp : s.port? p = some ps)
    (hb : ps.busy = some b) (f : Instr → State → Host.Outcome State Fault Refusal) :
    s.agentTurn cfg p f = s.busAccess cfg p b := by
  simp only [State.agentTurn, hp, hb]

theorem takeTurn_busy {s : State} {m : Turn} {p : Port} {ps : PortState} {b : Busy} (hm : m = .run p ∨ m = .access p)
    (hp : s.port? p = some ps) (hb : ps.busy = some b) : s.takeTurn cfg exec m = s.busAccess cfg p b := by
  obtain rfl | rfl := hm <;> exact agentTurn_busy hp hb _

/-- After a hardware reset no port is busy (R390). -/
theorem hardReset_port? (s : State) (p : Port) : (s.hardReset cfg).port? p = (s.port? p).map PortState.reset := by
  rcases p with _ | _ | r
  · rfl
  · rfl
  · exact List.getElem?_map

/-- A move that is not a port's own leaves its command in progress, or is a hardware reset (R86, R390). -/
theorem takeTurn_others {s t : State} {m : Turn} {p : Port} {ps : PortState} (hp : s.port? p = some ps)
    (hm : ¬ (m = .run p ∨ m = .access p)) (h : s.takeTurn cfg exec m = .next t) :
    t.turns = s.turns ∧ ∃ ps', t.port? p = some ps' ∧ (ps'.busy = ps.busy ∨ m = .hardReset ∧ ps'.busy = none) := by
  have hother : ∀ {q}, (m = .run q ∨ m = .access q) →
      t.turns = s.turns ∧ ∃ ps', t.port? p = some ps' ∧ (ps'.busy = ps.busy ∨ m = .hardReset ∧ ps'.busy = none) := by
    intro q hq
    obtain ⟨hturns, hports⟩ := takeTurn_onlyPort hq h
    refine ⟨hturns, ps, ?_, .inl rfl⟩
    rw [hports p fun hpq => hm (hpq ▸ hq), hp]
  obtain ⟨q, rfl, -⟩ | ⟨q, rfl, -⟩ | ⟨q, ws, qs, -, -, rfl⟩ | ⟨rfl, rfl⟩ := takeTurn_cases h
  · exact hother (.inl rfl)
  · exact hother (.inr rfl)
  · refine ⟨rfl, ?_⟩
    by_cases hpq : p = q
    · subst hpq
      rw [State.port?_modPort_self, hp]
      exact ⟨_, rfl, .inl rfl⟩
    · rw [State.port?_modPort_other s hpq]
      exact ⟨ps, hp, .inl rfl⟩
  · rw [hardReset_port?, hp]
    exact ⟨rfl, _, rfl, .inr ⟨rfl, rfl⟩⟩

/-- Settles O58: each read ends the SNAPSHOT or lowers the reads left, and no other agent's move touches it (R90,
R152). -/
theorem snapshotEnds : Obligations.SnapshotEnds := by
  intro s p ps m rest left ph s1 out hturns hp hb
  have hp' : State.port? { s with turns := rest } p = some ps := by rw [State.port?_withTurns, hp]
  rw [step_of_turn hturns]
  refine ⟨fun hm hleft hword => ?_, fun hm t h => ?_⟩
  · obtain ⟨t, ht, houtcome⟩ := readAccess_outcome (p := p) hword { s with turns := rest } left s1 out
    have hmove : State.takeTurn cfg exec { s with turns := rest } m = .next t := by
      rw [takeTurn_busy hm hp' hb]
      simp only [State.busAccess, ht]
    have hrest := (takeTurn_onlyPort hm hmove).1
    obtain ⟨st, data, rfl⟩ | ⟨hmore, hfail, rfl⟩ | ⟨ph', s1', out', hread, rfl⟩ := houtcome
    · exact ⟨_, _, hmove, hrest, respondOn_after_setBusy hp' st data, .inl rfl⟩
    · exact ⟨_, _, hmove, hrest, State.port?_setBusy hp' _, .inr ⟨_, _, _, _, rfl, by omega, nofun,
        readsLeft_next_attempt hfail hmore s1 out⟩⟩
    · exact ⟨_, _, hmove, hrest, State.port?_setBusy hp' _, .inr ⟨_, _, _, _, rfl, hleft,
        fun w hw => (hw ▸ hread).word_lt, hread.readsLeft_lt hleft⟩⟩
  · obtain ⟨hrest, ps', hps', hbusy⟩ := takeTurn_others hp' hm h
    exact ⟨ps', hrest, hps', hbusy⟩

end Sys2Proof.Machine
end

section
/-! PROOFS. A SNAPSHOT attempt that validates holds the slot as it was at its first read, whatever other agents did
meanwhile (R154), so every frame that a SNAPSHOT returns is in range (R95). -/

namespace Sys2Proof.Machine

/-! ### What a step does to the write sequence -/

/-- The write sequence has gone on by 0, 1 or 2; where it has not and is even, the slot is as it was (R87). -/
def seqStep (s t : State) : Prop :=
  ∃ e ≤ 2, t.bus.wseq = s.bus.wseq + BitVec.ofNat 32 e
    ∧ (e = 0 → seqOdd s.bus.wseq = false → t.bus.slot = s.bus.slot)

theorem seqStep_of_bus_eq {s t : State} (h : t.bus = s.bus) : seqStep s t :=
  ⟨0, by decide, by rw [h]; exact (BitVec.add_zero _).symm, fun _ _ => by rw [h]⟩

/-- A response moves nothing on the bus. -/
theorem seqStep.raise {s t : State} (h : seqStep s t) (st : Status) : seqStep s (t.raise st) := h

theorem seqStep_writeSequence (s : State) (ws : List Word) (e : Word) : seqStep s (s.writeSequence ws e) := by
  refine ⟨2, le_refl 2, ?_, fun h => absurd h (by decide)⟩
  rw [State.writeSequence_wseq, BitVec.add_assoc]
  rfl

/-- A bus write changes the slot only while the write sequence is odd (R87). -/
theorem writeAccess_seqStep {s u : State} {ws words : List Word} {e : Word} {ph : WritePhase}
    {more : Option WritePhase} (hat : writerAt s ws ph) (h : s.writeAccess cfg words e ph = some (u, more)) :
    seqStep s u := by
  obtain ⟨rfl, rfl, -⟩ | ⟨w, rfl, -, rfl, -⟩ | ⟨rfl, rfl, -⟩ | ⟨rfl, rfl, -⟩ := writeAccess_cases h
  · exact ⟨1, by decide, rfl, fun h => absurd h (by decide)⟩
  · obtain ⟨hodd, -, -⟩ := hat
    refine ⟨0, by decide, (BitVec.add_zero _).symm, fun _ heven => ?_⟩
    rw [hodd] at heven
    cases heven
  · exact ⟨1, by decide, rfl, fun h => absurd h (by decide)⟩
  · exact ⟨0, by decide, (BitVec.add_zero _).symm, fun _ _ => rfl⟩

@[simp] theorem State.afterWrite_bus (s : State) (p : Port) (more : Option WritePhase) (busy : WritePhase → Busy)
    (st : Status) : (s.afterWrite p more busy st).bus = s.bus := by
  cases more <;> rfl

theorem busAccess_seqStep {s t : State} {p : Port} {ps : PortState} {b : Busy} (h : busConsistent s)
    (hp : s.port? p = some ps) (hb : ps.busy = some b) (ha : s.busAccess cfg p b = .next t) : seqStep s t := by
  have hafter : ∀ {u : State} {more busy st}, seqStep s u → seqStep s (u.afterWrite .control more busy st) := by
    intro u more busy st hu
    rwa [seqStep, State.afterWrite_bus]
  obtain ⟨-, hbus, -⟩ | ⟨ph, st, u, more, hctl, hw, rfl⟩ | ⟨ph, u, more, hctl, hw, rfl⟩ :=
    access_bus_cases h.2.1 hp hb ha
  · exact seqStep_of_bus_eq hbus
  · obtain ⟨-, -, -, hat, -⟩ := (busConsistent_iff_publish hctl).1 h
    exact hafter (writeAccess_seqStep hat hw)
  · obtain ⟨-, -, -, hat⟩ := (busConsistent_iff_clear hctl).1 h
    exact hafter (writeAccess_seqStep hat hw)

@[simp] theorem State.writeTunable_bus (s : State) (id : Nat) (v : Word) : (s.writeTunable id v).bus = s.bus := by
  unfold State.writeTunable; split <;> rfl

/-- A command run whole makes one writer's sequence or none (R150, R155). -/
theorem exec_seqStep {i : Instr} {s t : State} (h : exec i s = .next t) : seqStep s t := by
  obtain ⟨st, data, rfl⟩ | ⟨-, ⟨id, v, rfl⟩ | ⟨ts, samples, st, rfl⟩ | rfl⟩ := exec_cases h
  · exact seqStep_of_bus_eq rfl
  · exact seqStep_of_bus_eq (State.writeTunable_bus s id v)
  · have hpub : seqStep (s.runTick cfg ts samples) (s.runTick cfg ts samples).publish := seqStep_writeSequence _ _ _
    rw [seqStep, State.runTick_bus] at hpub
    exact seqStep.raise hpub st
  · have hreset : seqStep s (s.softReset cfg) := seqStep_writeSequence (s.resetProducer cfg) (zeroWords cfg) 0
    exact hreset.raise .ok

/-- A command begun has no bus write behind it (R86). -/
theorem begin_seqStep {i : Instr} {s t : State} (h : s.begin cfg i = .next t) : seqStep s t := by
  obtain ⟨st, data, rfl⟩ | ⟨left, rfl⟩ | ⟨-, ⟨id, v, rfl⟩ | ⟨ts, samples, st, rfl⟩ | rfl⟩ := begin_cases h
  · exact seqStep_of_bus_eq rfl
  · exact seqStep_of_bus_eq rfl
  · exact seqStep_of_bus_eq (State.writeTunable_bus s id v)
  · exact seqStep_of_bus_eq (State.runTick_bus s ts samples)
  · exact seqStep_of_bus_eq rfl

theorem agentTurn_seqStep {f : Instr → State → Host.Outcome State Fault Refusal} {s t : State} {p : Port}
    (hf : ∀ {i : Instr} {u v : State}, f i u = .next v → seqStep u v) (hbus : busConsistent s)
    (h : s.agentTurn cfg p f = .next t) : seqStep s t := by
  obtain ⟨ps, hp, ⟨b, hb, ha⟩ | ⟨-, -, rfl⟩ | ⟨w, payload, rest, why, -, -, -, rfl⟩ |
    ⟨w, payload, rest, i, -, -, -, hi⟩⟩ := agentTurn_cases h
  · exact busAccess_seqStep hbus hp hb ha
  · exact seqStep_of_bus_eq rfl
  · exact seqStep_of_bus_eq rfl
  · have hrun : seqStep (s.fetched p rest) t := hf hi
    exact hrun

/-- A move other than a hardware reset takes the write sequence on by at most 2. -/
theorem takeTurn_seqStep {s t : State} {m : Turn} (hbus : busConsistent s) (h : s.takeTurn cfg exec m = .next t) :
    seqStep s t ∨ t = s.hardReset cfg := by
  obtain ⟨p, -, ha⟩ | ⟨p, -, ha⟩ | ⟨p, ws, ps, -, -, rfl⟩ | ⟨-, rfl⟩ := takeTurn_cases h
  · exact .inl (agentTurn_seqStep exec_seqStep hbus ha)
  · exact .inl (agentTurn_seqStep begin_seqStep hbus ha)
  · exact .inl (seqStep_of_bus_eq rfl)
  · exact .inr rfl

/-! ### What a step does to a SNAPSHOT in progress -/

/-- A step is a move from the state with some moves to come, or nothing. -/
theorem step_is_move {s t : State} (h : step s = .next t) :
    t = s ∨ ∃ m rest, State.takeTurn cfg exec { s with turns := rest } m = .next t := by
  obtain ⟨-, -, rfl⟩ | ⟨m, rest, -, hm⟩ | ⟨p, -, -, hm⟩ := step_cases h
  · exact .inl rfl
  · exact .inr ⟨m, rest, hm⟩
  · exact .inr ⟨.run p, s.turns, hm⟩

theorem inCopy_busy {t : State} {p : Port} {left : Nat} {ps : PortState} (h : inCopy t p left)
    (hp : t.port? p = some ps) : ∃ ph s1 out, ps.busy = some (.snap left ph s1 out) ∧ ph ≠ .seq1 := by
  obtain ⟨ps', ph, s1, out, hp', hb, hph⟩ := h
  obtain rfl : ps' = ps := Option.some.inj (hp'.symm.trans hp)
  exact ⟨ph, s1, out, hb, hph⟩

/-- A step that stays in an attempt is its next read, or a step of others that leaves the port alone. -/
theorem step_in_attempt {s t : State} {p : Port} {ps : PortState} {left : Nat} {ph : ReadPhase} {s1 : Word}
    {out : List Word} (hbus : busConsistent s) (hp : s.port? p = some ps) (hb : ps.busy = some (.snap left ph s1 out))
    (h : step s = .next t) (hin : inCopy t p left) :
    (t.bus = s.bus ∧ ∃ ps' ph' s1' out', t.port? p = some ps' ∧ ps'.busy = some (.snap left ph' s1' out')
        ∧ ReadStep s.bus ph s1 out ph' s1' out')
      ∨ (seqStep s t ∧ ∃ ps', t.port? p = some ps' ∧ ps'.busy = some (.snap left ph s1 out)) := by
  obtain rfl | ⟨m, rest, hm⟩ := step_is_move h
  · exact .inr ⟨seqStep_of_bus_eq rfl, ps, hp, hb⟩
  have hp' : State.port? { s with turns := rest } p = some ps := by rw [State.port?_withTurns, hp]
  by_cases hown : m = .run p ∨ m = .access p
  · refine .inl ?_
    rw [takeTurn_busy hown hp' hb] at hm
    obtain ⟨_, _, _, _, hbusy, -⟩ | ⟨_, _, _, hbusy, -⟩ | ⟨_, _, _, _, hbusy, hread⟩ := busAccess_cases hm
    · cases hbusy
    · cases hbusy
    cases hbusy
    obtain ⟨u, hu, houtcome⟩ := readAccess_outcome (p := p) (readAccess_word_lt hread) { s with turns := rest } left s1 out
    obtain rfl : u = t := Option.some.inj (hu.symm.trans hread)
    obtain ⟨st, data, rfl⟩ | ⟨-, -, rfl⟩ | ⟨ph', s1', out', hnext, rfl⟩ := houtcome
    · obtain ⟨_, _, _, hend, -⟩ := inCopy_busy hin (respondOn_after_setBusy hp' st data)
      cases hend
    · obtain ⟨_, _, _, hretry, hne⟩ := inCopy_busy hin (State.port?_setBusy hp' _)
      simp only [Option.some.injEq, Busy.snap.injEq] at hretry
      exact absurd hretry.2.1.symm hne
    · exact ⟨rfl, _, ph', s1', out', State.port?_setBusy hp' _, rfl, hnext⟩
  · refine .inr ?_
    obtain ⟨-, ps', hps', hbusy⟩ := takeTurn_others hp' hown hm
    obtain ⟨_, _, _, hsnap, -⟩ := inCopy_busy hin hps'
    obtain hbusy | ⟨-, hnone⟩ := hbusy
    · obtain hseq | rfl := takeTurn_seqStep (s := { s with turns := rest }) hbus hm
      · exact ⟨hseq, ps', hps', hbusy.trans hb⟩
      · rw [hardReset_port?, hp', Option.map_some, Option.some.injEq] at hps'
        subst hps'
        cases hsnap
    · rw [hnone] at hsnap
      cases hsnap

/-! ### The copy of an attempt -/

/-- The words read so far are those of the slot `m`, unless the write sequence has gone on by `d > 0` from `w0`; after the
last word, unless the sequence number read then is another (R152). -/
def copyAgrees (m : Memory) (w0 : Word) (d : Nat) (out : List Word) : ReadPhase → Prop
  | .seq1 => False
  | .word w => d = 0 → out = (List.range w).map m.readWord
  | .seq2 => d = 0 → out = (List.range 219).map m.readWord
  | .epoch s2 => s2 = w0 → out = (List.range 219).map m.readWord

/-- The state `t` is past the first read, made in `s`, of an attempt of the port, and the write sequence has gone on by
`d` since (R154). -/
structure CopyOf (s : State) (p : Port) (left d : Nat) (t : State) : Prop where
  even : seqOdd s.bus.wseq = false
  wseq : t.bus.wseq = s.bus.wseq + BitVec.ofNat 32 d
  slot : d = 0 → t.bus.slot = s.bus.slot
  copy : ∃ ps ph out, t.port? p = some ps ∧ ps.busy = some (.snap left ph s.bus.wseq out)
    ∧ copyAgrees s.bus.slot s.bus.wseq d out ph

theorem copyAgrees_mono {m : Memory} {w0 : Word} {d d' : Nat} {out : List Word} {ph : ReadPhase} (hd : d ≤ d')
    (h : copyAgrees m w0 d out ph) : copyAgrees m w0 d' out ph := by
  cases ph with
  | seq1 => exact h
  | word w => exact fun h0 => h (by omega)
  | seq2 => exact fun h0 => h (by omega)
  | epoch s2 => exact h

/-- The next read keeps the agreement. -/
theorem copyAgrees_readStep {m : Memory} {w0 : Word} {d : Nat} {bus : Bus} {ph ph' : ReadPhase} {s1 s1' : Word}
    {out out' : List Word} (hd : d < 2 ^ 32) (hwseq : bus.wseq = w0 + BitVec.ofNat 32 d)
    (hslot : d = 0 → bus.slot = m) (h : copyAgrees m w0 d out ph) (hread : ReadStep bus ph s1 out ph' s1' out') :
    s1' = s1 ∧ copyAgrees m w0 d out' ph' := by
  cases hread with
  | first => exact h.elim
  | word _ _ hmore =>
    refine ⟨rfl, fun h0 => ?_⟩
    rw [h h0, hslot h0, List.range_succ, List.map_append]
    rfl
  | lastWord =>
    refine ⟨rfl, fun h0 => ?_⟩
    rw [h h0, hslot h0, List.range_succ, List.map_append]
    rfl
  | seq2 =>
    refine ⟨rfl, fun hs2 => h ?_⟩
    have hzero : BitVec.ofNat 32 d = 0 := by
      rw [hwseq] at hs2
      simpa using hs2
    have := congrArg BitVec.toNat hzero
    rw [BitVec.toNat_ofNat, Nat.mod_eq_of_lt hd] at this
    exact this

/-- The first read finds the write sequence even and starts an empty copy (R152). -/
theorem copyOf_first {s t : State} {p : Port} {left : Nat} (hbus : busConsistent s) (hat : atFirstRead s p left)
    (h : step s = .next t) (hin : inCopy t p left) : CopyOf s p left 0 t := by
  obtain ⟨ps, s1, out, hp, hb⟩ := hat
  obtain ⟨hsame, ps', ph', s1', out', hps', hb', hread⟩ | ⟨-, ps', hps', hb'⟩ := step_in_attempt hbus hp hb h hin
  · cases hread with
    | first _ _ heven =>
      exact ⟨heven, by rw [hsame]; exact (BitVec.add_zero _).symm, fun _ => by rw [hsame],
        ps', _, _, hps', hb', fun _ => rfl⟩
  · obtain ⟨_, _, _, hsnap, hne⟩ := inCopy_busy hin hps'
    rw [hb'] at hsnap
    cases hsnap
    exact absurd rfl hne

/-- A further step, of whatever agent, keeps the agreement and takes the write sequence on by at most 2. -/
theorem copyOf_step {s t u : State} {p : Port} {left d : Nat} (hbus : busConsistent t) (hd : d < 2 ^ 32)
    (hcopy : CopyOf s p left d t) (h : step t = .next u) (hin : inCopy u p left) :
    ∃ e ≤ 2, CopyOf s p left (d + e) u := by
  obtain ⟨heven, hwseq, hslot, ps, ph, out, hp, hb, hagree⟩ := hcopy
  obtain ⟨hsame, ps', ph', s1', out', hps', hb', hread⟩ | ⟨⟨e, he, hwseq', hslot'⟩, ps', hps', hb'⟩ :=
    step_in_attempt hbus hp hb h hin
  · obtain ⟨rfl, hagree'⟩ := copyAgrees_readStep hd hwseq hslot hagree hread
    exact ⟨0, by decide, heven, by rw [hsame]; exact hwseq, fun h0 => by rw [hsame]; exact hslot h0,
      ps', ph', out', hps', hb', hagree'⟩
  · refine ⟨e, he, heven, ?_, fun h0 => ?_, ps', ph, out, hps', hb', copyAgrees_mono (Nat.le_add_right d e) hagree⟩
    · rw [hwseq', hwseq, BitVec.add_assoc, ← BitVec.ofNat_add]
    · obtain rfl : d = 0 := by omega
      rw [hslot' (by omega), hslot rfl]
      rw [hwseq]
      exact (congrArg seqOdd (BitVec.add_zero _)).trans heven

/-- Induction on the moves of an attempt: fewer than 2^31 take the write sequence on by less than 2^32 (R154). -/
theorem copyOf_attemptRun {s t : State} {p : Port} {left n : Nat} (hs : busConsistent s)
    (hrun : AttemptRun p left n s t) (hn : n < 2 ^ 31) :
    busConsistent t ∧ ∃ d ≤ 2 * n, CopyOf s p left d t := by
  induction hrun with
  | first hat h hin => exact ⟨busConsistencyKept _ _ hs h, 0, Nat.zero_le _, copyOf_first hs hat h hin⟩
  | more _ h hin ih =>
    obtain ⟨hbus, d, hd, hcopy⟩ := ih hs (by omega)
    obtain ⟨e, he, hcopy'⟩ := copyOf_step hbus (by omega) hcopy h hin
    exact ⟨busConsistencyKept _ _ hbus h, d + e, by omega, hcopy'⟩

/-- An attempt about to succeed holds the words the slot held at its first read, when no copy was in progress; `s1` is the
sequence number of then (R154). -/
theorem attemptRun_copy {s t : State} {p : Port} {left n : Nat} {ps : PortState} {s1 s2 : Word} {out : List Word}
    (hs : busConsistent s) (hrun : AttemptRun p left n s t) (hn : n < 2 ^ 31) (hp : t.port? p = some ps)
    (hb : ps.busy = some (.snap left (.epoch s2) s1 out)) (hsame : s1 = s2) :
    out = (List.range 219).map s.bus.slot.readWord ∧ s1 = s.bus.wseq ∧ seqOdd s.bus.wseq = false := by
  obtain ⟨-, d, -, heven, -, -, ps', ph, out', hp', hb', hagree⟩ := copyOf_attemptRun hs hrun hn
  obtain rfl : ps' = ps := Option.some.inj (hp'.symm.trans hp)
  rw [hb] at hb'
  cases hb'
  exact ⟨hagree hsame.symm, rfl, heven⟩

/-! ### The frames that a SNAPSHOT returns -/

theorem attemptOk_iff {s1 s2 e : Word} {out : List Word} :
    attemptOk s1 s2 e out = true ↔ s1 = s2 ∧ out.getD 0 0 = e ∧ e ≠ 0 := by
  simp only [attemptOk, Bool.and_eq_true, beq_iff_eq, bne_iff_ne, and_assoc]

/-- Once a writer has written the words and not yet the epoch, the slot shows its frame in range, or zeros (R150, R155). -/
theorem frameInRange_of_word_ne_epoch {s : State} (h : stateLegal s) (heven : seqOdd s.bus.wseq = false)
    (hne : s.bus.slot.readWord 0 ≠ 0) (hepoch : s.bus.slot.readWord 0 ≠ s.bus.epoch) :
    frameInRange (decodeFrame cfg (s.bus.slot.words cfg)) := by
  obtain ⟨-, hbus, -, hstaged⟩ := (stateLegal_iff s).1 h
  have hodd : ∀ {P : Prop}, seqOdd s.bus.wseq = true → P := fun hodd => by rw [hodd] at heven; cases heven
  cases hb : s.ctl.busy with
  | none =>
    obtain ⟨-, -, -, -, hpub⟩ := (busConsistent_iff_notWriting (hb ▸ notWriting_none)).1 hbus
    exact absurd (slotPublished_first_word hpub) hepoch
  | some b =>
    cases b with
    | snap left ph s1 out =>
      obtain ⟨-, -, -, -, hpub⟩ := (busConsistent_iff_notWriting (hb ▸ notWriting_snap left ph s1 out)).1 hbus
      exact absurd (slotPublished_first_word hpub) hepoch
    | publish ph st =>
      obtain ⟨-, -, hlen, hat, -⟩ := (busConsistent_iff_publish hb).1 hbus
      cases ph with
      | openSeq => exact absurd hat.2 hepoch
      | word w => exact hodd hat.1
      | closeSeq => exact hodd hat.1
      | epoch =>
        have hframe := hstaged _ _ hb
        obtain ⟨-, -, -, hwave, hraw, hsmooth, hpitch, hband, -⟩ := id hframe
        rwa [words_of_slotHolds hat.2 hlen, decodeFrame_frameWords hwave hraw.1 hsmooth.1 hpitch.1 hband.1]
    | clear ph =>
      obtain ⟨-, -, -, hat⟩ := (busConsistent_iff_clear hb).1 hbus
      cases ph with
      | openSeq => exact absurd hat.2 hepoch
      | word w => exact hodd hat.1
      | closeSeq => exact hodd hat.1
      | epoch => exact absurd (hat.2 0 (by omega)) hne

/-- In a legal state with no copy in progress, a slot whose first word is not 0 holds a frame in range (R95). -/
theorem slot_frameInRange {s : State} (h : stateLegal s) (heven : seqOdd s.bus.wseq = false)
    (hne : s.bus.slot.readWord 0 ≠ 0) : frameInRange (decodeFrame cfg (s.bus.slot.words cfg)) := by
  by_cases hepoch : s.bus.slot.readWord 0 = s.bus.epoch
  · obtain ⟨-, -, hslot, -⟩ := (stateLegal_iff s).1 h
    exact hslot (attemptOk_iff.2 ⟨rfl, hepoch, hepoch ▸ hne⟩) heven
  · exact frameInRange_of_word_ne_epoch h heven hne hepoch

/-- The attempts of a whole SNAPSHOT that succeed give the words of a slot that shows the epoch (R152). -/
theorem attempts_eq_some {s : State} {k : Nat} {out : List Word} (h : s.attempts cfg k = some out) :
    out = s.bus.slot.words cfg ∧ seqOdd s.bus.wseq = false
      ∧ attemptOk s.bus.wseq s.bus.wseq s.bus.epoch (s.bus.slot.words cfg) = true := by
  induction k with
  | zero => cases h
  | succ k ih =>
    simp only [State.attempts] at h
    split at h
    · rename_i out' hone
      cases h
      unfold State.attempt at hone
      split_ifs at hone with hodd hok
      exact ⟨(Option.some.inj hone).symm, Bool.eq_false_of_not_eq_true hodd, hok⟩
    · exact ih h

/-- The response of a whole SNAPSHOT that carries words is that of an attempt that succeeded (R152). -/
theorem answerSnapshot_ok {s : State} {ps : PortState} {copy : Option (List Word)} {out : List Word}
    (hp : s.port? s.cur = some ps)
    (h : (s.answerSnapshot copy).port? s.cur = some { ps with resp := ps.resp ++ 0x000000DB :: out }) :
    copy = some out := by
  have hresp : ∀ st data, s.answerSnapshot copy = s.respond st data → response st data = 0x000000DB :: out := by
    intro st data heq
    rw [heq, State.respond, State.respondOn, State.port?_modPort_self, hp] at h
    simpa using h
  cases copy with
  | none =>
    have hnone := hresp .noData [] rfl
    rw [response_empty] at hnone
    exact absurd (List.cons.inj hnone).1 (by decide)
  | some ws =>
    have hsome := hresp .ok ws rfl
    rw [(List.cons.inj hsome).2]

/-- Settles O56: a SNAPSHOT answers the words of the slot, as they stand or as they stood at its first read, when no copy was
in progress (R95, R154). -/
theorem snapshotFramesInRange : Obligations.SnapshotFramesInRange := by
  refine ⟨fun s t k ps out h hp ht hresp => ?_, fun p left n s t ps s1 s2 out h hrun hn hp hb hok => ?_⟩
  · cases ht
    obtain ⟨rfl, heven, hok⟩ := attempts_eq_some (answerSnapshot_ok hp hresp)
    obtain ⟨-, -, hslot, -⟩ := (stateLegal_iff s).1 h
    exact hslot hok heven
  · obtain ⟨hsame, hfirst, hne⟩ := attemptOk_iff.1 hok
    obtain ⟨-, hbus, -⟩ := (stateLegal_iff s).1 h
    obtain ⟨rfl, -, heven⟩ := attemptRun_copy hbus hrun hn hp hb hsame
    exact slot_frameInRange h heven fun h0 => hne (hfirst.symm.trans h0)

end Sys2Proof.Machine
end

section
/-! PROOFS. Command words and their fields, admission, and the decoder against the encoder (R110 to R126). -/

namespace Sys2Proof

open Machine (lowHalf_append highHalf_append unpackSamples_packHalves packHalves_getD decode_eq_ok)

/-! ### Command words and their fields -/

/-- A word is the command word of its own fields (R111). -/
theorem commandWord_fields (w : Word) : commandWord (opcField w) (selField w) (immField w) = w := by
  apply BitVec.eq_of_getLsbD_eq
  intro i hi
  simp only [commandWord, opcField, selField, immField, BitVec.getLsbD_append, BitVec.getLsbD_extractLsb']
  split_ifs with himm hsel
  · simp [himm]
  · simp [hsel, show 16 + (i - 16) = i by omega]
  · simp [show i - 16 - 8 < 8 by omega, show 24 + (i - 16 - 8) = i by omega]

theorem commandWord_inj {opc sel opc' sel' : Byte} {imm imm' : Half} :
    commandWord opc sel imm = commandWord opc' sel' imm' ↔ opc = opc' ∧ sel = sel' ∧ imm = imm' := by
  refine ⟨fun h => ⟨?_, ?_, ?_⟩, fun ⟨hopc, hsel, himm⟩ => by rw [hopc, hsel, himm]⟩
  · simpa using congrArg opcField h
  · simpa using congrArg selField h
  · simpa using congrArg immField h

theorem commandWord_and (opc sel opc' sel' : Byte) (imm imm' : Half) :
    commandWord opc sel imm &&& commandWord opc' sel' imm'
      = commandWord (opc &&& opc') (sel &&& sel') (imm &&& imm') :=
  (BitVec.and_append (x₁ := opc ++ sel) (x₂ := opc' ++ sel')).trans (congrArg (· ++ (imm &&& imm')) BitVec.and_append)

/-- A command word with an immediate and no selector, as its byte and half in place (R111). -/
theorem commandWord_imm (opc : Byte) (imm : Half) :
    commandWord opc 0 imm = (opc.setWidth 32 <<< 24) ||| imm.setWidth 32 := by
  apply BitVec.eq_of_getLsbD_eq
  intro i hi
  simp only [commandWord, BitVec.getLsbD_append, BitVec.getLsbD_or, BitVec.getLsbD_shiftLeft, BitVec.getLsbD_setWidth]
  split_ifs with himm hsel
  · simp [show i < 24 by omega, hi]
  · simp [show i < 24 by omega, BitVec.getLsbD_of_ge imm i (by omega)]
  · simp [show ¬ i < 24 by omega, hi, BitVec.getLsbD_of_ge imm i (by omega), show i - 16 - 8 = i - 24 by omega,
      show i - 24 < 32 by omega]

/-! ### Operations -/

@[simp] theorem Op.ofCode_code (op : Op) : Op.ofCode op.code = some op := by cases op <;> rfl

/-- A code is assigned to an operation exactly where it is the operation's (R112). -/
theorem Op.ofCode_eq_some_iff {b : Byte} {op : Op} : Op.ofCode b = some op ↔ b = op.code := by
  refine ⟨fun h => ?_, fun h => h ▸ Op.ofCode_code op⟩
  have hcode : (op.code == b) = true := List.find?_some (p := fun o : Op => o.code == b) h
  exact (eq_of_beq hcode).symm

theorem Op.mem_all (op : Op) : op ∈ Op.all := by cases op <;> decide

/-- The operations of a reader port (R120 d, R365). -/
theorem Op.onReader_iff (op : Op) : op.onReader = true ↔ op = .nop ∨ op = .snapshot ∨ op = .getEpoch := by
  cases op <;> decide

/-- The selectors that name an implemented register (R123). -/
theorem Op.lt_selCount_iff (op : Op) (sel : Byte) :
    sel.toNat < op.selCount
      ↔ (op = .setTunable ∨ op = .getTunable → sel.toNat ≤ 4) ∧ (op = .getStatus → sel.toNat ≤ 9) := by
  have hsel : sel.toNat < 256 := sel.isLt
  cases op with
  | setTunable | getTunable | getStatus => simp [Op.selCount, tunableCount, statusCount, Nat.lt_succ_iff]
  | nop | softReset | processChunk | snapshot | getEpoch => simp [Op.selCount, hsel]

theorem fieldsOk_iff (op : Op) (w : Word) :
    fieldsOk op w = true ↔ (op.hasSel = false → selField w = 0) ∧ (op.hasImm = false → immField w = 0) := by
  simp only [fieldsOk, Bool.and_eq_true, Bool.or_eq_true, beq_iff_eq, ← Bool.not_eq_true, or_iff_not_imp_left]

/-! ### Admission -/

/-- The port check of a word with an assigned code (R120 d). -/
theorem portAdmits_of_code {w : Word} {op : Op} (h : opcField w = op.code) (control : Bool) :
    portAdmits control w = (control || op.onReader) := by
  simp only [portAdmits, h, Op.ofCode_code]

/-- A word with no code of a reader's operation is refused on a reader port because of the port (R120 d, R121). -/
theorem accept_reader_port {w : Word} (hnop : opcField w ≠ 0x00) (hsnapshot : opcField w ≠ 0x40)
    (hgetEpoch : opcField w ≠ 0x41) (payload : List Word) : accept false w payload = .error .port := by
  have hport : portAdmits false w = false := by
    simp only [portAdmits, Bool.false_or]
    split
    · rename_i op hop
      have hcode := Op.ofCode_eq_some_iff.1 hop
      refine Bool.eq_false_iff.2 fun hreader => ?_
      obtain rfl | rfl | rfl := op.onReader_iff.1 hreader
      exacts [hnop hcode, hsnapshot hcode, hgetEpoch hcode]
    · rfl
  rw [accept, hport]
  rfl

/-- Everything an admitted word is: the code of an operation the port may run, its fields and selector as the operation
needs them, and the command built from it (R120, R121). -/
theorem accept_eq_ok_iff {control : Bool} {w : Word} {payload : List Word} {i : Instr} :
    accept control w payload = .ok i ↔ ∃ op : Op, opcField w = op.code ∧ (control = true ∨ op.onReader = true)
      ∧ fieldsOk op w = true ∧ (selField w).toNat < op.selCount ∧ buildInstr op w payload = i := by
  constructor
  · intro h
    unfold accept at h
    split at h
    · rename_i hport
      split at h
      · cases h
      · rename_i op hop
        have hcode := Op.ofCode_eq_some_iff.1 hop
        rw [portAdmits_of_code hcode, Bool.or_eq_true] at hport
        split at h
        · rename_i hfields
          split at h
          · rename_i hsel
            injection h with h
            exact ⟨op, hcode, hport, hfields, hsel, h⟩
          · cases h
        · cases h
    · cases h
  · rintro ⟨op, hcode, hport, hfields, hsel, rfl⟩
    rw [← Bool.or_eq_true, ← portAdmits_of_code hcode] at hport
    rw [accept, if_pos hport, hcode, Op.ofCode_code]
    simp only [hfields, hsel, if_true]

/-! ### The opcode table -/

/-- The row of an operation: its code, and a mask of the code and of the fields it lacks (R112). -/
def Op.tableRow (op : Op) : TableRow :=
  { op := op
    matchBits := commandWord op.code 0 0
    mask := commandWord (BitVec.allOnes 8) (if op.hasSel then 0 else BitVec.allOnes 8)
      (if op.hasImm then 0 else BitVec.allOnes 16) }

theorem opcodeTable_eq : opcodeTable = Op.all.map Op.tableRow := by decide +kernel

/-- A word matches the row of an operation exactly where it has the operation's code and 0 in the fields the operation
lacks (R112, R120). -/
theorem matches_tableRow_iff (op : Op) (w : Word) :
    w &&& op.tableRow.mask = op.tableRow.matchBits ↔ opcField w = op.code ∧ fieldsOk op w = true := by
  have hmask : w &&& op.tableRow.mask = commandWord (opcField w) (if op.hasSel then 0 else selField w)
      (if op.hasImm then 0 else immField w) := by
    rw [← commandWord_fields w, Op.tableRow, commandWord_and, commandWord_fields]
    congr 1
    · exact BitVec.and_allOnes
    · split_ifs
      · exact BitVec.and_zero
      · exact BitVec.and_allOnes
    · split_ifs
      · exact BitVec.and_zero
      · exact BitVec.and_allOnes
  rw [hmask, Op.tableRow, commandWord_inj, fieldsOk_iff]
  simp

/-- Settles O21: a row matches where code and fields do, and the other clauses are the selector and the port (R123, R365). -/
theorem admissionMatchesTable : Obligations.AdmissionMatchesTable := by
  intro control w payload
  have hrows : ∀ P : TableRow → Prop, (∃ row ∈ opcodeTable, P row) ↔ ∃ op : Op, P op.tableRow := by
    intro P
    simp [opcodeTable_eq, Op.mem_all]
  have hport : ∀ op : Op, (control = false → op = .nop ∨ op = .snapshot ∨ op = .getEpoch)
      ↔ (control = true ∨ op.onReader = true) := by
    intro op
    rw [← Op.onReader_iff]
    cases control <;> simp
  rw [hrows]
  constructor
  · rintro ⟨i, h⟩
    obtain ⟨op, hcode, hright, hfields, hsel, -⟩ := accept_eq_ok_iff.1 h
    obtain ⟨htun, hstat⟩ := (op.lt_selCount_iff _).1 hsel
    exact ⟨op, (matches_tableRow_iff op w).2 ⟨hcode, hfields⟩, htun, hstat, (hport op).2 hright⟩
  · rintro ⟨op, hmatch, htun, hstat, hright⟩
    obtain ⟨hcode, hfields⟩ := (matches_tableRow_iff op w).1 hmatch
    exact ⟨_, accept_eq_ok_iff.2
      ⟨op, hcode, (hport op).1 hright, hfields, (op.lt_selCount_iff _).2 ⟨htun, hstat⟩, rfl⟩⟩

/-! ### Taking a command off a stream -/

theorem hasWords_iff (n : Nat) (ws : List Word) : hasWords n ws = true ↔ n ≤ ws.length := by
  fun_induction hasWords n ws with
  | case1 => simp
  | case2 => simp
  | case3 n w ws ih => rw [ih, List.length_cons, Nat.succ_le_succ_iff]

theorem commandLength_pos (w : Word) : 0 < commandLength w := by
  unfold commandLength
  split_ifs <;> omega

/-- A stream gives a command exactly where it starts with a command word and as many further words as that word's
length needs (R113). -/
theorem takeCommand_eq_some_iff {ws payload tail : List Word} {w : Word} :
    takeCommand ws = some (w, payload, tail)
      ↔ ws = w :: (payload ++ tail) ∧ payload.length + 1 = commandLength w := by
  constructor
  · intro h
    cases ws with
    | nil => cases h
    | cons v ws =>
      simp only [takeCommand, hasWords_iff] at h
      split at h
      · rename_i hlen
        cases h
        have hpos := commandLength_pos w
        rw [List.take_append_drop, List.length_take]
        exact ⟨rfl, by omega⟩
      · cases h
  · rintro ⟨rfl, hlen⟩
    have hn : commandLength w - 1 = payload.length := by omega
    have hwords : hasWords payload.length (payload ++ tail) = true := (hasWords_iff _ _).2 (by simp)
    simp only [takeCommand, hn, hwords, if_true, List.take_left, List.drop_left]

/-- Everything a decoded stream is: a command word, a payload of its length and the tail, the word admitted as the
command (R113, R120). -/
theorem decode_eq_ok_iff {control : Bool} {ws tail : List Word} {i : Instr} :
    decode control ws = .ok (i, tail) ↔ ∃ w payload, ws = w :: (payload ++ tail)
      ∧ payload.length + 1 = commandLength w ∧ accept control w payload = .ok i := by
  constructor
  · intro h
    obtain ⟨w, payload, htake, haccept⟩ := decode_eq_ok h
    obtain ⟨hws, hlen⟩ := takeCommand_eq_some_iff.1 htake
    exact ⟨w, payload, hws, hlen, haccept⟩
  · rintro ⟨w, payload, hws, hlen, haccept⟩
    simp only [decode, takeCommand_eq_some_iff.2 ⟨hws, hlen⟩, haccept]

/-! ### Samples -/

theorem unpackSamples_length {n : Nat} {ws : List Word} (h : sampleWords n ≤ ws.length) :
    (unpackSamples n ws).length = n := by
  fun_induction unpackSamples n ws with
  | case1 => rfl
  | case2 n => simp [sampleWords] at h
  | case3 => rfl
  | case4 n w ws ih =>
    simp only [sampleWords, List.length_cons] at h ih ⊢
    rw [ih (by omega)]

/-- Sample `i` is the low or the high half of the word that holds it (R115). -/
theorem unpackSamples_getD {n i : Nat} {ws : List Word} (h : sampleWords n ≤ ws.length) (hi : i < n) :
    (unpackSamples n ws).getD i 0 = if i % 2 = 0 then lowHalf (ws.getD (i / 2) 0) else highHalf (ws.getD (i / 2) 0) := by
  fun_induction unpackSamples n ws generalizing i with
  | case1 => omega
  | case2 n => simp [sampleWords] at h
  | case3 w ws =>
    obtain rfl : i = 0 := by omega
    rfl
  | case4 n w ws ih =>
    match i with
    | 0 => rfl
    | 1 => rfl
    | i + 2 =>
      simp only [sampleWords, List.length_cons] at h ih
      have hrest := ih (i := i) (by omega) (by omega)
      simpa [show (i + 2) / 2 = i / 2 + 1 by omega] using hrest

/-- The low half of a word of packed samples is the even sample, in a last word with one sample too (R83, R115). -/
theorem lowHalf_packHalves_getD {l : List Half} {i : Nat} (hi : 2 * i < l.length) :
    lowHalf ((packHalves l).getD i 0) = l.getD (2 * i) 0 := by
  fun_induction packHalves l generalizing i with
  | case1 => simp at hi
  | case2 a =>
    obtain rfl : i = 0 := by simp at hi; omega
    exact lowHalf_append a 0
  | case3 a b rest ih =>
    match i with
    | 0 => exact lowHalf_append a b
    | i + 1 => exact ih (by simp only [List.length_cons] at hi; omega)

theorem highHalf_append_lowHalf (w : Word) : highHalf w ++ lowHalf w = w := by
  exact (BitVec.extractLsb'_append_extractLsb'_eq_extractLsb' rfl).trans BitVec.extractLsb'_eq_self

/-- Packing the unpacked samples gives back each word, but for the high half of the last word where the number of
samples is odd (R115). -/
theorem packHalves_unpackSamples_getD {n j : Nat} {ws : List Word} (h : ws.length = sampleWords n) (hj : j < ws.length) :
    (packHalves (unpackSamples n ws)).getD j 0 = ws.getD j 0
      ∨ (j + 1 = ws.length ∧ n % 2 = 1
        ∧ lowHalf ((packHalves (unpackSamples n ws)).getD j 0) = lowHalf (ws.getD j 0)) := by
  have hlen := unpackSamples_length h.ge
  have hlow : (unpackSamples n ws).getD (2 * j) 0 = lowHalf (ws.getD j 0) := by
    rw [unpackSamples_getD h.ge (by rw [h, sampleWords] at hj; omega)]
    simp
  rw [h, sampleWords] at hj
  by_cases hboth : 2 * j + 1 < n
  · left
    rw [packHalves_getD (hlen.symm ▸ hboth), hlow, unpackSamples_getD h.ge hboth,
      if_neg (by omega), show (2 * j + 1) / 2 = j by omega, highHalf_append_lowHalf]
  · right
    refine ⟨by rw [h, sampleWords]; omega, by omega, ?_⟩
    rw [lowHalf_packHalves_getD (by omega), hlow]

/-! ### A command as its operation, fields and payload -/

/-- The operation of a command (R112). -/
def Instr.op : Instr → Op
  | .nop => .nop
  | .softReset => .softReset
  | .processChunk _ _ => .processChunk
  | .setTunable _ _ => .setTunable
  | .getTunable _ => .getTunable
  | .getStatus _ => .getStatus
  | .snapshot _ => .snapshot
  | .getEpoch => .getEpoch

/-- The selector of a command, 0 where it has none (R111). -/
def Instr.sel : Instr → Byte
  | .setTunable id _ => id
  | .getTunable id => id
  | .getStatus idx => idx
  | .nop | .softReset | .processChunk _ _ | .snapshot _ | .getEpoch => 0

/-- The immediate of a command, 0 where it has none (R111). -/
def Instr.imm : Instr → Half
  | .processChunk _ samples => BitVec.ofNat 16 samples.length
  | .snapshot k => k
  | .nop | .softReset | .setTunable _ _ | .getTunable _ | .getStatus _ | .getEpoch => 0

/-- The command word of a command: the first word of its encoding. -/
def Instr.head (i : Instr) : Word := commandWord i.op.code i.sel i.imm

/-- The payload of a command: the further words of its encoding (R115, R116). -/
def Instr.payload : Instr → List Word
  | .processChunk ts samples => ts :: packHalves samples
  | .setTunable _ v => [v]
  | .nop | .softReset | .getTunable _ | .getStatus _ | .snapshot _ | .getEpoch => []

theorem encode_eq (i : Instr) : encode i = i.head :: i.payload := by cases i <;> rfl

@[simp] theorem opcField_head (i : Instr) : opcField i.head = i.op.code := opcField_commandWord _ _ _

@[simp] theorem selField_head (i : Instr) : selField i.head = i.sel := selField_commandWord _ _ _

@[simp] theorem immField_head (i : Instr) : immField i.head = i.imm := immField_commandWord _ _ _

theorem fieldsOk_head (i : Instr) : fieldsOk i.op i.head = true := by
  rw [fieldsOk_iff, selField_head, immField_head]
  cases i <;> simp [Instr.op, Op.hasSel, Op.hasImm, Instr.sel, Instr.imm]

theorem selField_head_lt {i : Instr} (h : i.wellFormed = true) : (selField i.head).toNat < i.op.selCount := by
  cases i with
  | setTunable _ _ | getTunable _ | getStatus _ =>
    simpa [Instr.op, Op.selCount, Instr.sel, Instr.wellFormed] using h
  | nop | softReset | processChunk _ _ | snapshot _ | getEpoch => exact BitVec.isLt _

/-- The payload of a well-formed command has the length its command word says (R113). -/
theorem payload_length {i : Instr} (h : i.wellFormed = true) : i.payload.length + 1 = commandLength i.head := by
  have hstatement : Laws.EncodeLength.Statement i := by
    cases i with
    | nop => exact Laws.EncodeLength.nop
    | softReset => exact Laws.EncodeLength.softReset
    | processChunk ts samples => exact Laws.EncodeLength.processChunk ts samples
    | setTunable id v => exact Laws.EncodeLength.setTunable id v
    | getTunable id => exact Laws.EncodeLength.getTunable id
    | getStatus idx => exact Laws.EncodeLength.getStatus idx
    | snapshot k => exact Laws.EncodeLength.snapshot k
    | getEpoch => exact Laws.EncodeLength.getEpoch
  obtain ⟨w, payload, hencode, hlen⟩ := hstatement h
  rw [encode_eq] at hencode hlen
  rw [(List.cons.inj hencode).1]
  exact hlen

/-! ### Decoding what was encoded -/

/-- The command built from the words of a well-formed command is the command. -/
theorem buildInstr_head {i : Instr} (h : i.wellFormed = true) : buildInstr i.op i.head i.payload = i := by
  cases i with
  | processChunk ts samples =>
    have hlen : samples.length % 2 ^ 16 = samples.length := Nat.mod_eq_of_lt (by simpa [Instr.wellFormed] using h)
    simp only [Instr.op, Instr.imm, Instr.payload, buildInstr, immField_head, BitVec.toNat_ofNat, hlen,
      List.getD_cons_zero, List.drop_succ_cons, List.drop_zero, unpackSamples_packHalves]
  | setTunable _ _ | getTunable _ | getStatus _ | snapshot _ =>
    simp [Instr.op, Instr.sel, Instr.imm, Instr.payload, buildInstr]
  | nop | softReset | getEpoch => rfl

theorem accept_head {control : Bool} {i : Instr} (h : i.wellFormed = true)
    (hport : control = true ∨ i.op.onReader = true) : accept control i.head i.payload = .ok i :=
  accept_eq_ok_iff.2 ⟨i.op, opcField_head i, hport, fieldsOk_head i, selField_head_lt h, buildInstr_head h⟩

/-- Decoding the encoding of a well-formed command, on a port that may run it, gives the command (R111 to R119). -/
theorem decode_encode {control : Bool} {i : Instr} (h : i.wellFormed = true)
    (hport : control = true ∨ i.op.onReader = true) (ws : List Word) :
    decode control (encode i ++ ws) = .ok (i, ws) :=
  decode_eq_ok_iff.2 ⟨i.head, i.payload, by rw [encode_eq, List.cons_append], payload_length h, accept_head h hport⟩

/-- Settles O17: the command word is admitted as the command, and the payload has its length, on P and on a reader port. -/
theorem decodeOfEncode : Obligations.DecodeOfEncode := by
  refine fun i ws h => ⟨decode_encode h (.inl rfl) ws, fun hreader => decode_encode h (.inr ?_) ws⟩
  obtain rfl | ⟨k, rfl⟩ | rfl := hreader <;> rfl

/-! ### Encoding what was decoded -/

section
variable {op : Op} {w : Word} {payload : List Word}

/-- The payload of a PROCESS_CHUNK word is the timestamp and the sample words (R113, R115). -/
theorem chunk_payload_cases (hcode : opcField w = Op.processChunk.code) (hlen : payload.length + 1 = commandLength w) :
    ∃ ts words, payload = ts :: words ∧ words.length = sampleWords (immField w).toNat := by
  rw [commandLength, if_pos hcode] at hlen
  cases payload with
  | nil => simp only [List.length_nil] at hlen; omega
  | cons ts words => exact ⟨ts, words, rfl, by simp only [List.length_cons] at hlen; omega⟩

theorem buildInstr_op (op : Op) (w : Word) (payload : List Word) : (buildInstr op w payload).op = op := by
  cases op <;> rfl

theorem buildInstr_wellFormed (hcode : opcField w = op.code) (hsel : (selField w).toNat < op.selCount)
    (hlen : payload.length + 1 = commandLength w) : (buildInstr op w payload).wellFormed = true := by
  cases op with
  | processChunk =>
    obtain ⟨ts, words, rfl, hwords⟩ := chunk_payload_cases hcode hlen
    simp only [buildInstr, Instr.wellFormed, List.drop_succ_cons, List.drop_zero, unpackSamples_length hwords.ge]
    exact decide_eq_true (immField w).isLt
  | setTunable | getTunable | getStatus => exact decide_eq_true hsel
  | nop | softReset | snapshot | getEpoch => rfl

/-- The command word of the command built from a word is the word (R111). -/
theorem buildInstr_head_eq (hcode : opcField w = op.code) (hfields : fieldsOk op w = true)
    (hlen : payload.length + 1 = commandLength w) : (buildInstr op w payload).head = w := by
  obtain ⟨hsel, himm⟩ := (fieldsOk_iff op w).1 hfields
  refine Eq.trans ?_ (commandWord_fields w)
  rw [Instr.head, buildInstr_op, commandWord_inj]
  refine ⟨hcode.symm, ?_⟩
  cases op with
  | processChunk =>
    obtain ⟨ts, words, rfl, hwords⟩ := chunk_payload_cases hcode hlen
    refine ⟨(hsel rfl).symm, ?_⟩
    simp only [buildInstr, Instr.imm, List.drop_succ_cons, List.drop_zero, unpackSamples_length hwords.ge,
      BitVec.ofNat_toNat, BitVec.setWidth_eq]
  | setTunable | getTunable | getStatus => exact ⟨rfl, (himm rfl).symm⟩
  | snapshot => exact ⟨(hsel rfl).symm, rfl⟩
  | nop | softReset | getEpoch => exact ⟨(hsel rfl).symm, (himm rfl).symm⟩

/-- The payload of the command built from a word is the payload it was built from, but for the ignored half of the last
word of an odd chunk (R115, R116). -/
theorem buildInstr_payload_getD (hcode : opcField w = op.code) (hlen : payload.length + 1 = commandLength w) {j : Nat}
    (hj : j < payload.length) :
    (buildInstr op w payload).payload.getD j 0 = payload.getD j 0
      ∨ (j + 1 = payload.length
        ∧ (∃ ts samples, buildInstr op w payload = .processChunk ts samples ∧ samples.length % 2 = 1)
        ∧ lowHalf ((buildInstr op w payload).payload.getD j 0) = lowHalf (payload.getD j 0)) := by
  cases op with
  | processChunk =>
    obtain ⟨ts, words, rfl, hwords⟩ := chunk_payload_cases hcode hlen
    match j with
    | 0 => exact .inl rfl
    | j + 1 =>
      obtain hsame | ⟨hlast, hodd, hlow⟩ := packHalves_unpackSamples_getD hwords (Nat.lt_of_succ_lt_succ hj)
      · exact .inl hsame
      · exact .inr ⟨congrArg (· + 1) hlast, ⟨_, _, rfl, (unpackSamples_length hwords.ge).symm ▸ hodd⟩, hlow⟩
  | setTunable =>
    have hone : payload.length = 1 := by simpa [commandLength, hcode, Op.code] using hlen
    obtain ⟨v, rfl⟩ := List.length_eq_one_iff.1 hone
    exact .inl rfl
  | nop | softReset | getTunable | getStatus | snapshot | getEpoch =>
    have hnone : payload.length = 0 := by simpa [commandLength, hcode, Op.code] using hlen
    omega

end

/-- Settles O18: the decoded command has the stream's command word and payload, but for the half that R115 ignores. -/
theorem encodeOfDecode : Obligations.EncodeOfDecode := by
  intro control ws i tail h
  obtain ⟨w, payload, rfl, hlen, haccept⟩ := decode_eq_ok_iff.1 h
  obtain ⟨op, hcode, -, hfields, hsel, hbuild⟩ := accept_eq_ok_iff.1 haccept
  have hwf : i.wellFormed = true := hbuild ▸ buildInstr_wellFormed hcode hsel hlen
  have hhead : i.head = w := hbuild ▸ buildInstr_head_eq hcode hfields hlen
  have hpayload : i.payload.length = payload.length := by
    have hlen' := payload_length hwf
    rw [hhead] at hlen'
    omega
  rw [encode_eq, hhead, List.length_cons, hpayload]
  refine ⟨hwf, by simp, by simp; omega, fun j hj => ?_⟩
  cases j with
  | zero => exact .inl rfl
  | succ j =>
    have hj' : j < payload.length := Nat.lt_of_succ_lt_succ hj
    simp only [List.getD_cons_succ, List.getD_append _ _ _ _ hj', Nat.add_right_cancel_iff]
    subst hbuild
    exact buildInstr_payload_getD hcode hlen hj'

/-- Settles O20: the chunk's command word is admitted, its payload has its length, and unpacking reads each half (R115). -/
theorem payloadSamples : Obligations.PayloadSamples := by
  intro n ts ws tail hws
  have hcode : Op.processChunk.code.setWidth 32 <<< 24 = (0x10000000 : Word) := by decide
  have hword : 0x10000000 ||| n.setWidth 32 = commandWord Op.processChunk.code 0 n := by rw [commandWord_imm, hcode]
  have hwords : ws.length = sampleWords n.toNat := hws
  refine ⟨unpackSamples n.toNat ws, ?_, unpackSamples_length hwords.ge, fun i hi => unpackSamples_getD hwords.ge hi⟩
  rw [hword, decode_eq_ok_iff]
  refine ⟨_, ts :: ws, rfl, ?_, ?_⟩
  · rw [commandLength, opcField_commandWord, if_pos rfl, immField_commandWord, List.length_cons, hwords]
    omega
  · refine accept_eq_ok_iff.2 ⟨.processChunk, by simp, .inl rfl, ?_, BitVec.isLt _, ?_⟩
    · simp [fieldsOk_iff, Op.hasImm]
    · simp [buildInstr]

/-! ### Lengths and examples -/

/-- A word has an operation code exactly where its top byte is it (R111). -/
theorem opcField_eq_iff (w : Word) (b : Byte) : opcField w = b ↔ w.toNat / 2 ^ 24 = b.toNat := by
  have hw : w.toNat < 2 ^ 32 := w.isLt
  rw [← BitVec.toNat_inj, opcField, BitVec.extractLsb'_toNat, Nat.shiftRight_eq_div_pow, Nat.mod_eq_of_lt (by omega)]

theorem immField_toNat (w : Word) : (immField w).toNat = w.toNat % 2 ^ 16 := by
  rw [immField, BitVec.extractLsb'_toNat, Nat.shiftRight_zero]

/-- Settles O19: the length from the top byte and the low half, and the examples of R126 run by the model. -/
theorem lengthsAndExamples : Obligations.LengthsAndExamples := by
  refine ⟨fun w => ?_, by decide +kernel, by decide +kernel, by decide +kernel, by decide +kernel,
    fun control payload => ?_, accept_reader_port (by decide) (by decide) (by decide), by decide +kernel,
    by decide +kernel, by decide +kernel, by decide +kernel, by decide +kernel⟩
  · simp only [commandLength, opcField_eq_iff, immField_toNat, sampleWords]
    rfl
  · cases control <;> rfl

end Sys2Proof
end

section
/-! PROOFS. Commands that the block answers `ILLEGAL`: those of port P on a reader port, and those not admitted (R120, R360,
R365). -/

namespace Sys2Proof.Machine

/-- `raise ILLEGAL` sends the header alone and changes nothing else (R360). -/
theorem raise_illegal_onlyAnswered (s : State) : onlyAnswered s (s.raise .illegal) [0x03000000] := by
  have h := respond_onlyAnswered s .illegal []
  rwa [response_empty] at h

/-- A command of port P is answered `ILLEGAL` on a reader port (R120 d). -/
theorem onControl_of_reader {s : State} {r : Nat} (hc : s.cur = .reader r) (t : State) :
    s.onControl t = .next (s.raise .illegal) := by
  rw [onControl_eq, hc]
  rfl

/-- A command that a reader port may not run is answered `ILLEGAL` there (R120 d, R365). -/
theorem exec_of_reader {s : State} {r : Nat} {i : Instr} (hc : s.cur = .reader r) (hi : i.op.onReader = false) :
    exec i s = .next (s.raise .illegal) := by
  cases i with
  | softReset | processChunk _ _ | setTunable _ _ | getTunable _ | getStatus _ => exact onControl_of_reader hc _
  | nop | snapshot _ | getEpoch => cases hi

/-- Settles O10: the commands that a reader port may not run, and the codes refused there (R120, R365). -/
theorem readerPortRights : Obligations.ReaderPortRights := by
  refine ⟨fun r s i hc hi => ⟨_, exec_of_reader hc ?_, raise_illegal_onlyAnswered s⟩,
    fun w payload hnop hsnapshot hgetEpoch => accept_reader_port hnop hsnapshot hgetEpoch payload⟩
  obtain rfl | ⟨ts, samples, rfl⟩ | ⟨id, v, rfl⟩ | ⟨id, rfl⟩ | ⟨idx, rfl⟩ := hi <;> rfl

/-- The turn of an idle port with a command that is not admitted answers `ILLEGAL` and takes the command and its payload
off the stream (R113, R120). -/
theorem agentTurn_illegal {s : State} {p : Port} {ps : PortState} {w : Word} {payload tail : List Word} {why : Illegal}
    (f : Instr → State → Host.Outcome State Fault Refusal) (hp : s.port? p = some ps) (hidle : ps.busy = none)
    (hcmds : ps.cmds = w :: (payload ++ tail)) (hlen : payload.length + 1 = commandLength w)
    (hill : accept p.isControl w payload = .error why) :
    s.agentTurn cfg p f = .next ((s.fetched p tail).raise .illegal) := by
  simp only [State.agentTurn, hp, hidle, State.start, takeCommand_eq_some_iff.2 ⟨hcmds, hlen⟩, hill]

/-- Taking a command off the stream of a port changes the stream of that port alone. -/
theorem port?_fetched {s : State} {p : Port} {ps : PortState} (hp : s.port? p = some ps) (tail : List Word) :
    (s.fetched p tail).port? p = some { ps with cmds := tail }
      ∧ ∀ q, q ≠ p → (s.fetched p tail).port? q = s.port? q := by
  refine ⟨?_, (fetched_onlyPort s p tail).2⟩
  have hself := State.port?_modPort_self s p fun ps => { ps with cmds := tail }
  rw [hp] at hself
  refine Eq.trans ?_ hself
  rcases p with _ | _ | r <;> rfl

/-- Settles O12: the move of the port takes the command off its stream and raises `ILLEGAL`, whether it runs commands whole
or by accesses (R113, R120, R360). -/
theorem illegalCommandAnswered : Obligations.IllegalCommandAnswered := by
  intro s p ps m rest w payload tail why hturns hm hp hidle hcmds hlen hill
  have hp' : State.port? { s with turns := rest } p = some ps := by rw [State.port?_withTurns, hp]
  have hstep : step s = .next ((State.fetched { s with turns := rest } p tail).raise .illegal) := by
    rw [step_of_turn hturns]
    obtain rfl | rfl := hm <;> exact agentTurn_illegal _ hp' hidle hcmds hlen hill
  obtain ⟨hself, hothers⟩ := port?_fetched hp' tail
  obtain ⟨⟨hsent, hkept, -, hrest⟩, hprod, hbus⟩ :=
    raise_illegal_onlyAnswered (State.fetched { s with turns := rest } p tail)
  refine ⟨_, hstep, ?_, fun q hq => ?_, hprod, hbus, hrest⟩
  · rw [State.fetched_cur, hself, hidle] at hsent
    exact hsent
  · rw [hkept q hq, hothers q hq, State.port?_withTurns]

end Sys2Proof.Machine
end

section
/-! PROOFS. The commands of the frame bus and the publication: what GET_EPOCH and a SNAPSHOT with nothing written meanwhile
answer (R152, R153), what a tick leaves on the bus (R150, R330), and the epochs of a run of ticks (R151). -/

namespace Sys2Proof.Machine

/-! ### GET_EPOCH -/

/-- A word with a value in a field that its operation lacks is refused because of its fields, where the port may run the
operation (R120, R121). -/
theorem accept_bad_fields {control : Bool} {w : Word} {op : Op} (hcode : opcField w = op.code)
    (hright : control = true ∨ op.onReader = true) (hfields : ¬ fieldsOk op w = true) (payload : List Word) :
    accept control w payload = .error .fields := by
  rw [← Bool.or_eq_true, ← portAdmits_of_code hcode] at hright
  rw [accept, if_pos hright, hcode, Op.ofCode_code]
  exact if_neg hfields

/-- Settles O2: admission of the word by its code and fields, and the epoch as the one word of the response (R153). -/
theorem getEpochReads : Obligations.GetEpochReads := by
  refine ⟨by decide, fun control payload => ?_, fun control w payload hcode hfields => ?_, rfl,
    fun s => ⟨s.respond .ok [s.bus.epoch], rfl, ?_⟩⟩
  · exact accept_eq_ok_iff.2 ⟨.getEpoch, by decide, .inr rfl, by decide, by decide, rfl⟩
  · refine accept_bad_fields (op := .getEpoch) hcode (.inr rfl) (fun hok => hfields ?_) payload
    obtain ⟨hsel, himm⟩ := (fieldsOk_iff _ _).1 hok
    exact ⟨hsel rfl, himm rfl⟩
  · have h := respond_onlyAnswered s .ok [s.bus.epoch]
    rwa [response_one] at h

/-! ### SNAPSHOT with nothing written meanwhile -/

/-- No copy is in progress where the write sequence is even (R58, R152). -/
theorem seqOdd_eq_false_iff (w : Word) : seqOdd w = false ↔ w.toNat % 2 = 0 := by
  rw [seqOdd, BitVec.getLsbD, Nat.testBit_zero, decide_eq_false_iff_not]
  exact Nat.mod_two_ne_one

theorem Memory.words_length (m : Memory) : (m.words cfg).length = 219 := by
  rw [Memory.words, List.length_map, List.length_range]
  rfl

theorem Memory.words_first (m : Memory) : (m.words cfg).getD 0 0 = m.readWord 0 := rfl

/-- With nothing written meanwhile, some attempt of a SNAPSHOT succeeds exactly where one is made and the slot shows a
publication; the copy is then the slot (R152). -/
theorem attempts_eq_some_iff {s : State} {k : Nat} {out : List Word} :
    s.attempts cfg k = some out ↔ k ≠ 0 ∧ s.bus.wseq.toNat % 2 = 0 ∧ s.bus.epoch ≠ 0
      ∧ s.bus.slot.readWord 0 = s.bus.epoch ∧ out = s.bus.slot.words cfg := by
  constructor
  · intro h
    obtain ⟨rfl, heven, hok⟩ := attempts_eq_some h
    obtain ⟨-, hfirst, hne⟩ := attemptOk_iff.1 hok
    have hmade : k ≠ 0 := by rintro rfl; cases h
    exact ⟨hmade, (seqOdd_eq_false_iff _).1 heven, hne, s.bus.slot.words_first.symm.trans hfirst, rfl⟩
  · rintro ⟨hmade, heven, hne, hfirst, rfl⟩
    obtain ⟨k, rfl⟩ := Nat.exists_eq_succ_of_ne_zero hmade
    have hok : attemptOk s.bus.wseq s.bus.wseq s.bus.epoch (s.bus.slot.words cfg) = true :=
      attemptOk_iff.2 ⟨rfl, s.bus.slot.words_first.trans hfirst, hne⟩
    have hone : s.attempt cfg = some (s.bus.slot.words cfg) := by
      rw [State.attempt, (seqOdd_eq_false_iff _).2 heven, if_pos hok]
      rfl
    rw [State.attempts, hone]

/-- Settles O9: the answer is the slot where an attempt succeeds, and the NO_DATA header where none does (R117, R152). -/
theorem snapshotAnswers : Obligations.SnapshotAnswers := by
  intro k s
  have hmade : k ≠ 0 ↔ k.toNat ≠ 0 := (BitVec.toNat_ne_iff_ne (y := 0)).symm
  refine ⟨s.answerSnapshot (s.attempts cfg k.toNat), rfl, fun ⟨hk, heven, hne, hfirst⟩ => ?_, fun hfail => ?_⟩
  · have hcopy := attempts_eq_some_iff.2 ⟨hmade.1 hk, heven, hne, hfirst, rfl⟩
    have h := respond_onlyAnswered s .ok (s.bus.slot.words cfg)
    rw [response_frame s.bus.slot.words_length] at h
    rw [hcopy]
    exact h
  · have hcopy : s.attempts cfg k.toNat = none := Option.eq_none_iff_forall_ne_some.2 fun out hout => by
      obtain ⟨hk, heven, hne, hfirst, -⟩ := attempts_eq_some_iff.1 hout
      exact hfail ⟨hmade.2 hk, heven, hne, hfirst⟩
    have h := respond_onlyAnswered s .noData []
    rw [response_empty] at h
    rw [hcopy]
    exact h

/-! ### A SNAPSHOT attempt among other agents -/

/-- Settles O57: the copy of an attempt is the slot at its first read (`attemptRun_copy`), and the validation gives the
epoch (R154). -/
theorem snapshotNeverMixes : Obligations.SnapshotNeverMixes := by
  intro p left n s t ps s1 s2 out hs hrun hn hp hb hok
  obtain ⟨hsame, hfirst, hne⟩ := attemptOk_iff.1 hok
  obtain ⟨hcopy, hseq, heven⟩ := attemptRun_copy hs hrun hn hp hb hsame
  exact ⟨hcopy, hseq, heven, hfirst, hne⟩

/-! ### What a tick leaves on the bus -/

/-- The publication of a staging frame that fills the slot leaves its words there, and no byte beyond them changes (R150). -/
theorem publish_slot {s : State} (hwf : s.bus.slot.wf = true) (hlen : (frameWords s.frame).length = slotWords cfg) :
    (∀ w, w < 219 → s.publish.bus.slot.readWord w = frameWord s.frame w)
      ∧ ∀ a, 876 ≤ a → s.publish.bus.slot.read a = s.bus.slot.read a := by
  obtain ⟨-, hwords, hbytes⟩ := writeSlots_slot (frameWords s.frame) s 0 hwf (by omega)
  have hslot : s.publish.bus.slot = (s.writeSlots 0 (frameWords s.frame)).bus.slot := by
    rw [State.publish, State.writeSequence_eq]
  have hsize : slotWords cfg = 219 := rfl
  rw [hslot]
  refine ⟨fun w hw => ?_, hbytes⟩
  rw [hwords w (by omega), if_pos ⟨Nat.zero_le w, by omega⟩]
  rfl

/-- The write sequence and the epoch after a tick (R150). -/
theorem ticks_sequence {s t : State} {ts : Word} {samples : List Half} (h : ticks s ts samples t) :
    t.bus.wseq = s.bus.wseq + 2 ∧ t.bus.epoch = nextEpoch s.bus.epoch := by
  rw [ticks_eq h, State.raise_bus, State.publish, State.writeSequence_wseq, State.writeSequence_epoch, State.runTick_bus,
    State.runTick_frame, BitVec.add_assoc]
  exact ⟨rfl, rfl⟩

/-- The slot after a tick holds the words of the staging frame (R150). -/
theorem ticks_slot {s t : State} {ts : Word} {samples : List Half} (h : ticks s ts samples t)
    (hwf : s.bus.slot.wf = true) : (frameWords t.frame).length = 219
      ∧ (∀ w, w < 219 → t.bus.slot.readWord w = frameWord t.frame w)
      ∧ ∀ a, 876 ≤ a → t.bus.slot.read a = s.bus.slot.read a := by
  have hlen := tickFrame_words_length s s ts samples
  rw [← State.runTick_frame] at hlen
  have hpub := publish_slot (s := s.runTick cfg ts samples) (by rwa [State.runTick_bus]) hlen
  rw [State.runTick_bus] at hpub
  rw [ticks_eq h, State.raise_bus, State.raise_frame, State.publish, State.writeSequence_frame]
  exact ⟨hlen, hpub⟩

/-! ### The response and the counters of a tick -/

/-- The answer of a command counts from the state before the command where that has the same ports and bookkeeping. -/
theorem answered_of_same_ports {s u t : State} {ws : List Word} (h : answered u t ws) (hctl : u.ctl = s.ctl)
    (hreaders : u.readers = s.readers) (hcur : u.cur = s.cur) (hturns : u.turns = s.turns) : answered s t ws := by
  have hports : ∀ q, u.port? q = s.port? q := by
    rintro (_ | _ | r)
    · exact congrArg some hctl
    · rfl
    · exact congrArg (·[r]?) hreaders
  obtain ⟨hsent, hothers, hcur', hturns'⟩ := h
  rw [hcur] at hsent hothers hcur'
  exact ⟨hports _ ▸ hsent, fun q hq => (hothers q hq).trans (hports q), hcur', hturns'.trans hturns⟩

/-- A tick answers OK for a whole chunk and OK_CLAMPED for another (R170, R330). -/
theorem ticks_answered {s t : State} {ts : Word} {samples : List Half} (h : ticks s ts samples t) :
    answered s t [if samples.length = 128 then 0x00000000 else 0x01000000] := by
  obtain ⟨hsent, -⟩ := respond_onlyAnswered (s.runTick cfg ts samples).publish (chunkStatus cfg samples) []
  have hstatus : response (chunkStatus cfg samples) []
      = [if samples.length = 128 then 0x00000000 else 0x01000000] := by
    have hn : cfg.n = 128 := rfl
    rw [response_empty, chunkStatus, hn]
    split_ifs <;> rfl
  rw [hstatus] at hsent
  rw [ticks_eq h]
  refine answered_of_same_ports hsent ?_ ?_ ?_ ?_
  · rw [State.publish, State.writeSequence_ctl, State.runTick_ctl]
  · rw [State.publish, State.writeSequence_readers, State.runTick_readers]
  · rw [State.publish, State.writeSequence_cur, State.runTick_cur]
  · rw [State.publish, State.writeSequence_turns, State.runTick_turns]

/-- A guard event adds 1 to the counter and stays at its top (R45). -/
theorem guardEvent_guard_toNat (s : State) : s.guardEvent.guard.toNat = min (s.guard.toNat + 1) 0xFFFFFFFF := by
  have hlt := s.guard.isLt
  have htop : (0xFFFFFFFF : Word).toNat = 0xFFFFFFFF := rfl
  have hone : (1 : Word).toNat = 1 := rfl
  unfold State.guardEvent
  dsimp only
  split_ifs with h
  · rw [h, htop]
    rfl
  · have hne : s.guard.toNat ≠ 0xFFFFFFFF := fun hn => h (BitVec.eq_of_toNat_eq hn)
    rw [BitVec.toNat_add, hone]
    omega

/-- The flag byte of the staging frame tells a bit (R57, R295). -/
theorem decide_bit_eq_one (b : Bool) : decide (u8 (bit b) = 1) = b := by
  cases b <;> decide

/-- Settles O8: the fields a tick leaves, its response, and its publication (R150, R330, R331). -/
theorem processChunkPublishes : Obligations.ProcessChunkPublishes := by
  intro ts samples s hc hwf
  have h := ticks_next hc ts samples
  generalize ((s.runTick cfg ts samples).publish).raise (chunkStatus cfg samples) = t at h
  obtain ⟨htun, htick, hguard, -, -, -, -, hframe, hready, -, -⟩ := ticks_fields h
  obtain ⟨hwseq, hepoch⟩ := ticks_sequence h
  have hslot := ticks_slot h hwf
  refine ⟨t, h.2, ticks_answered h, htun, htick, ?_, ?_, ?_, ?_, ?_, hwseq, hepoch, hslot⟩
  · have hn : cfg.n = 128 := rfl
    rw [hguard, hn]
    split_ifs
    · rfl
    · exact guardEvent_guard_toNat s
  · rw [hready, hframe]
    exact (decide_bit_eq_one _).symm
  · rw [hframe]
    rfl
  · rw [hframe]
    rfl
  · rw [hframe, hepoch]
    rfl

/-! ### The epochs of a run of ticks -/

/-- The next epoch as a number: 1 after 0 and after the last, and one more in between (R151). -/
theorem nextEpoch_toNat (e : Word) : (nextEpoch e).toNat = e.toNat % (2 ^ 32 - 1) + 1 := by
  have hlt := e.isLt
  have hone : (1 : Word).toNat = 1 := rfl
  unfold nextEpoch
  split_ifs with h
  · rw [h]
    decide
  · have hne : e.toNat ≠ 0xFFFFFFFF := fun hn => h (BitVec.eq_of_toNat_eq hn)
    rw [BitVec.toNat_add, hone]
    omega

/-- Publication number `p + 1` of a run writes the epoch of R151. -/
theorem epoch_of_run {f : Nat → State} (h0 : (f 0).bus.epoch = 0)
    (hstep : ∀ n, (f (n + 1)).bus.epoch = nextEpoch (f n).bus.epoch) (p : Nat) :
    (f (p + 1)).bus.epoch.toNat = p % (2 ^ 32 - 1) + 1 := by
  induction p with
  | zero => rw [hstep, h0]; rfl
  | succ p ih => rw [hstep, nextEpoch_toNat, ih, Nat.mod_add_mod]

/-- The write sequence advances by two a publication (R150). -/
theorem wseq_of_run {f : Nat → State} (hstep : ∀ n, (f (n + 1)).bus.wseq = (f n).bus.wseq + 2) (p : Nat) :
    (f p).bus.wseq = (f 0).bus.wseq + BitVec.ofNat 32 (2 * p) := by
  induction p with
  | zero => exact (BitVec.add_zero _).symm
  | succ p ih => rw [hstep, ih, BitVec.add_assoc, Nat.mul_succ, BitVec.ofNat_add]; rfl

/-- Settles O47: induction over the run, one publication a tick (R151). -/
theorem epochSequence : Obligations.EpochSequence := by
  intro f ts samples h0 hrun p hp
  obtain ⟨p, rfl⟩ := Nat.exists_eq_succ_of_ne_zero (Nat.one_le_iff_ne_zero.1 hp)
  have hepoch := fun n => (ticks_sequence (hrun n)).2
  refine ⟨epoch_of_run h0 hepoch p, ?_, wseq_of_run (fun n => (ticks_sequence (hrun n)).1) _⟩
  rw [hepoch]
  exact nextEpoch_ne_zero _

end Sys2Proof.Machine
end

section
/-! PROOFS. The first stages of a tick: the chunk and its waveform (R170, R171), the levels (R172), the resonators (R177 to
R180), and the silence of a constant chunk (R171, R172, R180, R221, R223). -/

namespace Sys2Proof.Machine

/-! ### Arrays entry by entry -/

theorem at0_of_lt {l : List Int} {i : Nat} (h : i < l.length) : at0 l i = l[i] := List.getD_eq_getElem l 0 h

theorem mem_iff_exists_at0 {l : List Int} {v : Int} : v ∈ l ↔ ∃ i, i < l.length ∧ at0 l i = v := by
  rw [List.mem_iff_getElem]
  exact exists_congr fun i =>
    ⟨fun ⟨h, hv⟩ => ⟨h, (at0_of_lt h).trans hv⟩, fun ⟨h, hv⟩ => ⟨h, (at0_of_lt h).symm.trans hv⟩⟩

theorem at0_mem {l : List Int} {i : Nat} (h : i < l.length) : at0 l i ∈ l := mem_iff_exists_at0.2 ⟨i, h, rfl⟩

theorem sumTo_congr {n : Nat} {f g : Nat → Int} (h : ∀ i, i < n → f i = g i) : sumTo n f = sumTo n g := by
  rw [sumTo, List.map_congr_left fun i hi => h i (List.mem_range.1 hi), sumTo]

/-- A sum over the indices of an array is the sum over its entries. -/
theorem sumTo_at0 (f : Int → Int) (l : List Int) : sumTo l.length (fun i => f (at0 l i)) = (l.map f).sum := by
  refine congrArg List.sum (List.ext_getElem (by simp) fun i hi hi' => ?_)
  rw [List.getElem_map, List.getElem_range, List.getElem_map, at0_of_lt]

/-- An entry of an array stored in u32 fields. -/
theorem natAt_map_u32 {l : List Int} {top : Nat} (htop : top < 4294967296) (h : valuesWithin l top) (k : Nat) :
    (natAt (l.map u32) k : Int) = at0 l k := by
  obtain ⟨h0, h1⟩ := at0_within (Int.natCast_nonneg top) h k
  rw [natAt, show (0 : Word) = u32 0 from rfl, List.getD_map]
  exact uval_u32 h0 (h1.trans_lt (Int.ofNat_lt.2 htop))

/-- An integer root as a natural number (R12). -/
theorem isRoot_isqrt {v : Int} (hv : 0 ≤ v) : isRoot (isqrt v).toNat v := by
  obtain ⟨h0, hle, hlt⟩ := isqrt_spec hv
  rw [isRoot, Int.toNat_of_nonneg h0]
  exact ⟨hle, hlt⟩

/-! ### The chunk and its waveform -/

/-- The published waveform of a chunk, as numbers (R170, R171). -/
def waveform (samples : List Half) : List Int := removeDC cfg (assembleChunk cfg samples)

theorem waveform_length (samples : List Half) : (waveform samples).length = 128 := removeDC_length cfg samples

theorem waveform_within (samples : List Half) : ∀ v ∈ waveform samples, -32768 ≤ v ∧ v ≤ 32767 := removeDC_within _

theorem assembleChunk_length (samples : List Half) : (assembleChunk cfg samples).length = 128 := by
  rw [← waveform_length samples, waveform, removeDC, List.length_map]

/-- The chunk holds the samples, the first 128 of them, and zeros after their end (R170). -/
theorem at0_assembleChunk (samples : List Half) {i : Nat} (hi : i < 128) :
    at0 (assembleChunk cfg samples) i = if i < samples.length then sampleAt samples i else 0 := by
  have hn : cfg.n = 128 := rfl
  rw [at0_of_lt (by rw [assembleChunk_length]; exact hi)]
  simp only [assembleChunk, hn, List.getElem_append, List.length_map, List.length_take, lt_min_iff, hi, true_and,
    List.getElem_map, List.getElem_take, List.getElem_replicate]
  split_ifs with h
  · rw [sampleAt, List.getD_eq_getElem samples 0 h]
  · rfl

/-- A sample of the waveform is the chunk's less the mean, saturated (R171). -/
theorem at0_waveform (samples : List Half) {i : Nat} (hi : i < 128) : at0 (waveform samples) i
    = sat16 (at0 (assembleChunk cfg samples) i - (assembleChunk cfg samples).sum / 128) := by
  have hn : (cfg.n : Int) = 128 := rfl
  rw [at0_of_lt (by rw [waveform_length]; exact hi), at0_of_lt (by rw [assembleChunk_length]; exact hi)]
  simp only [waveform, removeDC, List.getElem_map, fdiv, hn]

/-- A value in the i16 range reads back from its field as it was stored (R9). -/
theorem toInt_u16 {v : Int} (h0 : -32768 ≤ v) (h1 : v ≤ 32767) : (u16 v).toInt = v :=
  BitVec.toInt_ofInt_eq_self (by decide) h0 (Int.lt_add_one_of_le h1)

theorem sampleAt_map_u16 {l : List Int} (h : ∀ v ∈ l, -32768 ≤ v ∧ v ≤ 32767) {i : Nat} (hi : i < l.length) :
    sampleAt (l.map u16) i = at0 l i := by
  obtain ⟨h0, h1⟩ := h _ (at0_mem hi)
  rw [sampleAt, show (0 : Half) = u16 0 from rfl, List.getD_map]
  exact toInt_u16 h0 h1

section
variable {s t : State} {ts : Word} {samples : List Half}

/-- The fields that a tick publishes from its waveform and raw magnitudes (R171, R172, R180, R221, R223). -/
theorem ticks_frame_fields (h : ticks s ts samples t) :
    t.frame.wave = (waveform samples).map u16 ∧ t.frame.peak = u32 (peakLevel (waveform samples))
      ∧ t.frame.rms = u32 (rmsLevel cfg (waveform samples))
      ∧ t.frame.raw = (filterbank cfg (waveform samples)).map u32
      ∧ t.frame.pitch = (pitchClasses cfg (filterbank cfg (waveform samples))).map u32
      ∧ t.frame.novelty = u32 (fluxNovelty cfg (filterbank cfg (waveform samples)) (uvals s.rawprev)) := by
  obtain ⟨-, -, -, -, -, -, -, hframe, -⟩ := ticks_fields h
  simp only [hframe, tickFrame, tickValues, waveform, and_self]

theorem ticks_wave_length (h : ticks s ts samples t) : t.frame.wave.length = 128 := by
  rw [(ticks_frame_fields h).1, List.length_map, waveform_length]

theorem ticks_sampleAt (h : ticks s ts samples t) {i : Nat} (hi : i < 128) :
    sampleAt t.frame.wave i = at0 (waveform samples) i := by
  rw [(ticks_frame_fields h).1]
  exact sampleAt_map_u16 (waveform_within samples) (by rwa [waveform_length])

theorem mem_waveform_iff (h : ticks s ts samples t) {v : Int} :
    v ∈ waveform samples ↔ ∃ i, i < 128 ∧ sampleAt t.frame.wave i = v := by
  rw [mem_iff_exists_at0, waveform_length]
  exact exists_congr fun i => and_congr_right fun hi => by rw [ticks_sampleAt h hi]

theorem sumTo_waveform (h : ticks s ts samples t) (f : Int → Int) :
    sumTo 128 (fun i => f (sampleAt t.frame.wave i)) = ((waveform samples).map f).sum := by
  rw [← sumTo_at0, waveform_length]
  exact sumTo_congr fun i hi => by rw [ticks_sampleAt h hi]

end

/-- Settles O23: the chunk entry by entry, its sum as the mean's, and the guard event of a wrong length (R170, R171). -/
theorem chunkAndWave : Obligations.ChunkAndWave := by
  intro s ts samples t h x mean
  have hsum : mean = (assembleChunk cfg samples).sum / 128 := by
    have hall := sumTo_at0 id (assembleChunk cfg samples)
    rw [assembleChunk_length, List.map_id] at hall
    rw [← hall]
    exact congrArg (· / 128) (sumTo_congr fun i hi => (at0_assembleChunk samples hi).symm)
  have hn : cfg.n = 128 := rfl
  obtain ⟨-, -, hguard, -⟩ := ticks_fields h
  have hanswer := ticks_answered h
  rw [hn] at hguard
  refine ⟨ticks_wave_length h, fun i hi => ?_, fun hlen => ?_, fun hlen => ?_⟩
  · rw [ticks_sampleAt h hi, at0_waveform samples hi, at0_assembleChunk samples hi, ← hsum]
    rfl
  · rw [if_pos hlen] at hguard hanswer
    exact ⟨hguard, hanswer⟩
  · rw [if_neg hlen] at hguard hanswer
    exact ⟨hguard ▸ guardEvent_guard_toNat s, hanswer⟩

/-! ### Levels -/

/-- The peak is twice the largest absolute value (R172). -/
theorem peakLevel_spec {x : List Int} (hx : x ≠ []) :
    (∀ v ∈ x, 2 * (v.natAbs : Int) ≤ peakLevel x) ∧ ∃ v ∈ x, peakLevel x = 2 * (v.natAbs : Int) := by
  obtain ⟨m, hm⟩ := Option.isSome_iff_exists.1 (List.isSome_max?_of_ne_nil
    (l := x.map fun v => (v.natAbs : Int)) (by simpa using hx))
  obtain ⟨hmem, hle⟩ := List.max?_eq_some_iff.1 hm
  obtain ⟨v, hv, rfl⟩ := List.mem_map.1 hmem
  have hpeak : peakLevel x = 2 * (v.natAbs : Int) := by
    rw [peakLevel, ← List.foldl_map (f := fun v : Int => (v.natAbs : Int)) (g := max), List.foldl_max, hm,
      Option.getD_some, max_eq_right (Int.natCast_nonneg _), mul_comm]
  refine ⟨fun u hu => ?_, v, hv, hpeak⟩
  have := hle _ (List.mem_map_of_mem hu)
  omega

/-- Some sample of a waveform is not negative: the mean is not above every sample (R171). -/
theorem exists_waveform_nonneg (samples : List Half) : ∃ v ∈ waveform samples, 0 ≤ v := by
  have hlen := assembleChunk_length samples
  have hn : (cfg.n : Int) = 128 := rfl
  generalize hx : assembleChunk cfg samples = x at hlen
  obtain ⟨u, hu, hle⟩ := List.exists_le_of_sum_le (l := x) (by rintro rfl; cases hlen)
    (fun _ => x.sum / 128) id (by
      rw [List.map_const', hlen, List.sum_replicate, List.map_id, nsmul_eq_mul]
      exact Int.mul_ediv_self_le (by decide))
  refine ⟨sat16 (u - fdiv x.sum cfg.n), by rw [waveform, hx]; exact List.mem_map_of_mem hu, ?_⟩
  rw [hn]
  simp only [sat16, fdiv, id] at hle ⊢
  omega

/-- The squares of a waveform sum to less than 128 times the largest possible square: one sample is not negative, and so
at most 32767 (R172). -/
theorem waveform_squares_lt (samples : List Half) :
    ((waveform samples).map fun v => v * v).sum < 128 * (32768 * 32768) := by
  have hwithin := waveform_within samples
  have hlt := List.sum_lt_sum (l := waveform samples) (fun v => v * v) (fun _ => 32768 * 32768)
    (fun v hv => by nlinarith [hwithin v hv]) ?_
  · simpa [waveform_length] using hlt
  · obtain ⟨v, hv, h0⟩ := exists_waveform_nonneg samples
    have := (hwithin v hv).2
    exact ⟨v, hv, by nlinarith⟩

/-- The mean of a waveform's squares is not negative, and below the largest possible square (R172). -/
theorem waveform_meanSquare_within (samples : List Half) :
    0 ≤ ((waveform samples).map fun v => v * v).sum / 128
      ∧ ((waveform samples).map fun v => v * v).sum / 128 < 32768 * 32768 := by
  have hnonneg : 0 ≤ ((waveform samples).map fun v => v * v).sum := List.sum_nonneg fun w hw => by
    obtain ⟨v, -, rfl⟩ := List.mem_map.1 hw
    exact mul_self_nonneg v
  have hlt := waveform_squares_lt samples
  omega

/-- The RMS is twice the root of the mean square, and that root is at most 32767 (R172). -/
theorem rmsLevel_waveform (samples : List Half) :
    ∃ r : Nat, isRoot r (((waveform samples).map fun v => v * v).sum / 128) ∧ r ≤ 32767
      ∧ rmsLevel cfg (waveform samples) = 2 * r := by
  have hn : (cfg.n : Int) = 128 := rfl
  obtain ⟨hmean0, hmean⟩ := waveform_meanSquare_within samples
  have hroot := isRoot_isqrt hmean0
  refine ⟨_, hroot, ?_, ?_⟩
  · have : (isqrt (((waveform samples).map fun v => v * v).sum / 128)).toNat < 32768 := by
      zify
      nlinarith [hroot.1]
    omega
  · rw [rmsLevel, fdiv, hn, Int.toNat_of_nonneg (isqrt_nonneg _), mul_comm]

/-- Settles O24: the maximum is reached, the mean of the squares is below the square of 32768, and the levels fit their
fields (R172). -/
theorem levels : Obligations.Levels := by
  intro s ts samples t h
  obtain ⟨-, hpeakField, hrmsField, -⟩ := ticks_frame_fields h
  have hwithin := waveform_within samples
  obtain ⟨hle, v, hv, hpeak⟩ := peakLevel_spec (List.ne_nil_of_length_eq_add_one (waveform_length samples))
  obtain ⟨r, hroot, hr, hrms⟩ := rmsLevel_waveform samples
  rw [← sumTo_waveform h] at hroot
  obtain ⟨i, hi, rfl⟩ := (mem_waveform_iff h).1 hv
  have hvRange := hwithin _ hv
  have hpeakNat : (t.frame.peak.toNat : Int) = peakLevel (waveform samples) := by
    rw [hpeakField]
    exact uval_u32 (by omega) (by omega)
  have hrmsNat : (t.frame.rms.toNat : Int) = rmsLevel cfg (waveform samples) := by
    rw [hrmsField]
    exact uval_u32 (by omega) (by omega)
  have hlePeak : ∀ j, j < 128 → 2 * (sampleAt t.frame.wave j).natAbs ≤ t.frame.peak.toNat := by
    intro j hj
    have := hle _ ((mem_waveform_iff h).2 ⟨j, hj, rfl⟩)
    omega
  refine ⟨hlePeak, ⟨i, hi, by omega⟩, ⟨r, hroot, by omega⟩, by omega, ⟨fun htop => ⟨i, hi, by omega⟩, ?_⟩,
    by omega⟩
  rintro ⟨j, hj, hmin⟩
  have := hlePeak j hj
  omega

/-! ### Resonators -/

theorem windowed_length (x w : List Int) : (windowed x w).length = min x.length w.length := List.length_zipWith

theorem at0_windowed {x w : List Int} {i : Nat} (hx : i < x.length) (hw : i < w.length) :
    at0 (windowed x w) i = at0 x i * at0 w i / 32768 := by
  rw [at0_of_lt (by rw [windowed_length]; exact lt_min hx hw), at0_of_lt hx, at0_of_lt hw]
  exact List.getElem_zipWith

/-- The values of the recurrence on a windowed chunk: two zeros, then the state after each sample (R178, R179). -/
def resonatorValue (coef : Int) (xw : List Int) : Nat → Int
  | 0 => 0
  | n + 1 => (resonate coef (xw.take n)).1

/-- One more sample is one more step of the recurrence (R179). -/
theorem resonate_take_succ (coef : Int) {xw : List Int} {n : Nat} (hn : n < xw.length) :
    resonate coef (xw.take (n + 1)) = resonatorStep coef (resonate coef (xw.take n)) (at0 xw n) := by
  rw [← List.take_append_getElem hn, at0_of_lt hn, resonate, List.foldl_append]
  rfl

/-- The states of a bin after `n` samples are two successive values of the recurrence (R179). -/
theorem resonate_take (coef : Int) {xw : List Int} {n : Nat} (hn : n ≤ xw.length) :
    resonate coef (xw.take n) = (resonatorValue coef xw (n + 1), resonatorValue coef xw n) := by
  cases n with
  | zero => rfl
  | succ n =>
    refine Prod.ext rfl ?_
    rw [resonate_take_succ coef hn]
    rfl

theorem resonatorValue_add_two (coef : Int) {xw : List Int} {n : Nat} (hn : n < xw.length) :
    resonatorValue coef xw (n + 2)
      = sat32 (at0 xw n + coef * resonatorValue coef xw (n + 1) / 16384 - resonatorValue coef xw n) := by
  rw [resonatorValue, resonate_take_succ coef hn, resonate_take coef hn.le]
  rfl

theorem at0_filterbank (x : List Int) {k : Nat} (hk : k < 64) : at0 (filterbank cfg x) k
    = binMagnitude cfg (at0 cfg.coef k) (at0 cfg.sink k) (resonate (at0 cfg.coef k) (windowed x cfg.w128)) := by
  rw [at0_of_lt (by rw [filterbank_length]; exact hk)]
  simp only [filterbank, List.getElem_map, List.getElem_range]

/-- The magnitude of a bin from the root of its energy (R180). -/
theorem binMagnitude_eq_root (coef sink s1 s2 : Int) :
    ∃ r : Nat, isRoot r ((s1 * 32768 - s2 * coef) * (s1 * 32768 - s2 * coef) + s2 * sink * (s2 * sink))
      ∧ binMagnitude cfg coef sink (s1, s2) = min (4 * (r : Int) / 2097045) 65535 := by
  have hsum : wSum cfg = 2097045 := by decide +kernel
  refine ⟨_, isRoot_isqrt (add_nonneg (mul_self_nonneg _) (mul_self_nonneg _)), ?_⟩
  rw [Int.toNat_of_nonneg (isqrt_nonneg _), ← hsum]
  rfl

/-- Settles O25: the recurrence value by value, and the root of the energy from its last two (R177 to R180). -/
theorem resonatorBank : Obligations.ResonatorBank := by
  intro s ts samples t h
  obtain ⟨-, -, -, hraw, -⟩ := ticks_frame_fields h
  refine ⟨by rw [hraw, List.length_map, filterbank_length], fun k hk => ?_⟩
  have hwindow : cfg.w128.length = 128 := by decide +kernel
  have hlen : (windowed (waveform samples) cfg.w128).length = 128 := by
    rw [windowed_length, waveform_length, hwindow, min_self]
  refine ⟨resonatorValue (at0 cfg.coef k) (windowed (waveform samples) cfg.w128), rfl, rfl, fun n hn => ?_, ?_⟩
  · rw [resonatorValue_add_two _ (by rwa [hlen]), at0_windowed (by rwa [waveform_length]) (by rwa [hwindow]),
      ticks_sampleAt h hn]
    rfl
  · have hfinal := resonate_take (at0 cfg.coef k) hlen.ge
    rw [List.take_of_length_le hlen.le] at hfinal
    have hnat := natAt_map_u32 (by decide) (filterbank_within (waveform samples)) k
    rw [← hraw, at0_filterbank _ hk, hfinal] at hnat
    obtain ⟨r, hroot, hmagnitude⟩ := binMagnitude_eq_root (at0 cfg.coef k) (at0 cfg.sink k)
      (resonatorValue (at0 cfg.coef k) (windowed (waveform samples) cfg.w128) 129)
      (resonatorValue (at0 cfg.coef k) (windowed (waveform samples) cfg.w128) 128)
    have hmin := hnat.trans hmagnitude
    exact ⟨r, hroot, by omega⟩

/-! ### The silence of a constant chunk -/

/-- The mean of equal samples is the sample, so nothing is left of them (R171). -/
theorem waveform_replicate (v : Half) : waveform (List.replicate 128 v) = List.replicate 128 0 := by
  have hchunk : assembleChunk cfg (List.replicate 128 v) = List.replicate 128 v.toInt := by
    have hn : cfg.n = 128 := rfl
    simp only [assembleChunk, hn, List.take_replicate, List.map_replicate, List.length_replicate, min_self, Nat.sub_self,
      List.replicate_zero, List.append_nil]
  have hmean : fdiv (List.replicate 128 v.toInt).sum cfg.n = v.toInt := by
    rw [List.sum_replicate, nsmul_eq_mul]
    exact Int.mul_ediv_cancel_left _ (by decide)
  rw [waveform, removeDC, hchunk, List.map_replicate, hmean, sub_self]
  rfl

/-- A window of zeros is zeros (R177). -/
theorem windowed_zeros (n : Nat) (w : List Int) : ∀ v ∈ windowed (List.replicate n 0) w, v = 0 := by
  intro v hv
  obtain ⟨i, hi, rfl⟩ := List.mem_iff_getElem.1 hv
  simp only [windowed, List.getElem_zipWith, List.getElem_replicate, zero_mul]
  rfl

/-- A resonator at rest stays at rest on zeros (R179). -/
theorem resonate_zeros (coef : Int) {xw : List Int} (h : ∀ v ∈ xw, v = 0) : resonate coef xw = (0, 0) :=
  List.foldlRecOn xw _ (motive := fun st : Int × Int => st = (0, 0)) rfl fun st hst v hv => by
    rw [hst, h v hv, resonatorStep, mul_zero]
    rfl

/-- A resonator at rest has no magnitude (R180). -/
theorem binMagnitude_rest (coef sink : Int) : binMagnitude cfg coef sink (0, 0) = 0 := by
  simp only [binMagnitude, zero_mul, sub_self]
  decide +kernel

theorem filterbank_zeros : filterbank cfg (List.replicate 128 0) = List.replicate 64 0 := by
  refine List.eq_replicate_iff.2 ⟨filterbank_length _, fun v hv => ?_⟩
  obtain ⟨k, hk, rfl⟩ := mem_iff_exists_at0.1 hv
  rw [at0_filterbank _ (by rwa [filterbank_length] at hk), resonate_zeros _ (windowed_zeros _ _)]
  exact binMagnitude_rest _ _

/-- Zeros rise above no magnitude (R223). -/
theorem fluxNovelty_zeros (prev : List Word) : fluxNovelty cfg (List.replicate 64 0) (uvals prev) = 0 := by
  have hprev : ∀ k, 0 ≤ at0 (uvals prev) k := at0_nonneg fun v hv => by
    obtain ⟨w, -, rfl⟩ := List.mem_map.1 hv
    exact uval_nonneg w
  have hzero : ∀ k, at0 (List.replicate 64 0) k = 0 := fun k => by
    rw [at0, List.getD_eq_getElem?_getD]
    exact List.getElem?_getD_replicate_default_eq ..
  have hsum : fluxSum cfg (List.replicate 64 0) (uvals prev) = 0 := List.sum_eq_zero fun v hv => by
    obtain ⟨k, -, rfl⟩ := List.mem_map.1 hv
    rw [hzero]
    exact max_eq_left (by linarith [hprev k])
  rw [fluxNovelty, hsum]
  decide

/-- Settles O26: a constant chunk leaves a waveform of zeros, and each stage gives zero on zeros, whatever the state before
(R171, R172, R180, R221, R223). -/
theorem constantChunkIsSilent : Obligations.ConstantChunkIsSilent := by
  intro s ts v t h
  have hpeak : peakLevel (List.replicate 128 0) = 0 := by decide +kernel
  have hrms : rmsLevel cfg (List.replicate 128 0) = 0 := by decide +kernel
  have hpitch : pitchClasses cfg (List.replicate 64 0) = List.replicate 12 0 := by decide +kernel
  obtain ⟨hwave, hpeakField, hrmsField, hraw, hpitchField, hnovelty⟩ := ticks_frame_fields h
  rw [waveform_replicate] at hwave hpeakField hrmsField hraw hpitchField hnovelty
  rw [filterbank_zeros] at hraw hpitchField hnovelty
  rw [hwave, hpeakField, hrmsField, hraw, hpitchField, hnovelty, hpeak, hrms, hpitch, fluxNovelty_zeros]
  simp only [List.map_replicate]
  exact ⟨rfl, rfl, rfl, rfl, rfl, rfl⟩

end Sys2Proof.Machine
end

section
/-! PROOFS. The post-processor (R200 to R205): its four stages on values that are not negative, the step of one bin, and
the decay of floor and smoothed output on constant chunks (R207). -/

namespace Sys2Proof.Machine

/-! ### Exponential smoothing on values that are not negative -/

/-- With a coefficient of at most 1 the step never passes its target, so the truncated subtraction of `emaNat` is exact
(R13). -/
theorem ema_natCast (s x : Nat) {a : Nat} (ha : a ≤ 65536) : ema s x a = emaNat s x a := by
  unfold emaNat
  split_ifs with h
  · rw [ema_of_le _ (Int.ofNat_le.2 h), cdiv]
    push_cast [h]
    omega
  · have hlt : x < s := not_le.1 h
    have hstep : (s - x) * a ≤ (s - x) * 65536 := Nat.mul_le_mul_left _ ha
    rw [ema_of_lt _ (Int.ofNat_lt.2 hlt), cdiv, ← Int.ofNat_sub hlt.le, ← Int.natCast_mul]
    omega

/-- A step between numbers of a range stays in it (R13). -/
theorem emaNat_le {s x a top : Nat} (ha : a ≤ 65536) (hs : s ≤ top) (hx : x ≤ top) : emaNat s x a ≤ top := by
  have := ema_between (s := s) (x := x) (Int.natCast_nonneg a) (by omega)
  rw [ema_natCast s x ha] at this
  omega

/-- A step towards 0 falls by at least 1, down to 0 (R13). -/
theorem emaNat_zero_le {s a : Nat} (h1 : 1 ≤ a) (ha : a ≤ 65536) : emaNat s 0 a ≤ s - 1 := by
  have := ema_distance_le (s := s) (x := 0) (Int.ofNat_le.2 h1) (by omega)
  rw [← Nat.cast_zero, ema_natCast s 0 ha] at this
  omega

/-! ### The stages on values that are not negative -/

theorem loudness_natCast (raw loud : Nat) : loudness raw loud = (min (raw * loud / 65536) 65535 : Nat) := by
  rw [loudness, fdiv]
  push_cast
  rfl

theorem aboveFloor_natCast (w floor : Nat) : aboveFloor w floor = (w - floor : Nat) := by
  rw [aboveFloor]
  omega

theorem softKnee_natCast (d knee : Nat) : softKnee d knee = (d * 65536 / (d + knee) : Nat) := by
  rw [softKnee, fdiv]
  push_cast
  rfl

/-! ### One bin -/

/-- The weighted magnitude of a bin (R202). -/
def weighted (loud raw : Nat) : Nat := min (raw * loud / 65536) 65535

/-- The compressed magnitude of a bin with weighted magnitude `w`, from the floor before the tick (R203, R204). -/
def compressed (knee w floor : Nat) : Nat := (w - floor) * 65536 / (w - floor + knee)

/-- The coefficient that takes the smoothed value towards `y` (R205). -/
def smoothCoef (t : Tunables) (y smooth : Nat) : Nat := if smooth < y then t.ppAttack.toNat else t.ppRelease.toNat

theorem smoothCoef_bounds {t : Tunables} (ht : tunablesLegal t) (y smooth : Nat) :
    1 ≤ smoothCoef t y smooth ∧ smoothCoef t y smooth ≤ 65536 := by
  obtain ⟨-, hattack, hrelease, -⟩ := ht
  unfold smoothCoef
  split_ifs
  · exact hattack
  · exact hrelease

theorem compressed_le {knee w : Nat} (floor : Nat) (hk : 256 ≤ knee) (hw : w ≤ 65535) :
    compressed knee w floor ≤ 65535 := by
  have := (softKnee_within (d := (w - floor : Nat)) (knee := knee) (by omega) (by omega) (by omega)).2
  rw [softKnee_natCast] at this
  exact Int.ofNat_le.1 this

/-- Nothing above the floor, nothing behind the knee (R204). -/
theorem compressed_zero (knee floor : Nat) : compressed knee 0 floor = 0 := by
  rw [compressed, Nat.zero_sub, Nat.zero_mul, Nat.zero_div]

theorem binFloor_natCast {t : Tunables} (ht : tunablesLegal t) (loud raw floor : Nat) :
    binFloor t loud raw floor = emaNat floor (weighted loud raw) t.ppFloor.toNat := by
  obtain ⟨-, -, -, -, halpha⟩ := ht
  rw [binFloor, nextFloor, loudness_natCast, uval, ema_natCast _ _ halpha.2, weighted]

theorem binSmooth_natCast {t : Tunables} (ht : tunablesLegal t) (loud raw floor smooth : Nat) :
    let y := compressed t.ppKnee.toNat (weighted loud raw) floor
    binSmooth t loud raw floor smooth = emaNat smooth y (smoothCoef t y smooth) := by
  intro y
  have hcoef : (if (y : Int) > smooth then uval t.ppAttack else uval t.ppRelease) = (smoothCoef t y smooth : Nat) := by
    simp only [smoothCoef, gt_iff_lt, Int.ofNat_lt, Nat.cast_ite, uval]
  have hy : softKnee (aboveFloor (loudness raw loud) floor) (uval t.ppKnee) = y := by
    rw [loudness_natCast, aboveFloor_natCast, uval, softKnee_natCast]
    rfl
  rw [binSmooth, nextSmooth, hy, hcoef, ema_natCast _ _ (smoothCoef_bounds ht y smooth).2]

/-! ### The step of every bin at a tick -/

theorem at0_uvals (l : List Word) (k : Nat) : at0 (uvals l) k = natAt l k := by
  rw [at0, uvals, show (0 : Int) = uval (0 : Word) from rfl, List.getD_map]
  rfl

theorem arrayWithin_natAt_le {l : List Word} {len top : Nat} (h : arrayWithin l len top) (k : Nat) :
    natAt l k ≤ top := by
  have := (at0_within (Int.natCast_nonneg top) (valuesWithin_uvals h) k).2
  rw [at0_uvals] at this
  exact Int.ofNat_le.1 this

/-- An entry of an array computed entry by entry. -/
theorem natAt_map_range {f : Nat → Int} {len k v : Nat} (hk : k < len) (hv : v < 4294967296) (hf : f k = v) :
    natAt ((List.range len).map fun i => u32 (f i)) k = v := by
  rw [natAt, List.getD_eq_getElem _ _ (by simpa using hk), List.getElem_map, List.getElem_range, hf]
  exact Int.ofNat_inj.1 (uval_u32 (Int.natCast_nonneg v) (Int.ofNat_lt.2 hv))

theorem ticks_keeps_spectralLegal {s t : State} {ts : Word} {samples : List Half} (h : ticks s ts samples t)
    (hs : spectralLegal s) : spectralLegal t := by
  obtain ⟨htun, -, -, hpost, hrawprev, -⟩ := ticks_fields h
  simpa only [spectralLegal, spectralInRange, htun, hpost, hrawprev, State.runTick_tun, State.runTick_post,
    State.runTick_rawprev] using runTick_keeps_spectralLegal hs ts samples

theorem ticks_post {s t : State} {ts : Word} {samples : List Half} (h : ticks s ts samples t) :
    t.post = postStage cfg s.tun (filterbank cfg (waveform samples)) s.post := by
  obtain ⟨-, -, -, hpost, -⟩ := ticks_fields h
  simpa only [tickValues, waveform] using hpost

/-- Floor and smoothed value of a bin after a tick, from those before it and the magnitude it publishes (R200). -/
theorem ticks_bin {s t : State} {ts : Word} {samples : List Half} (h : ticks s ts samples t) (hs : spectralLegal s)
    {k : Nat} (hk : k < 64) :
    let w := weighted (cfg.loud.getD k 0).toNat (natAt t.frame.raw k)
    let y := compressed s.tun.ppKnee.toNat w (natAt s.post.floor k)
    natAt t.post.floor k = emaNat (natAt s.post.floor k) w s.tun.ppFloor.toNat
      ∧ natAt t.post.smooth k
        = emaNat (natAt s.post.smooth k) y (smoothCoef s.tun y (natAt s.post.smooth k)) := by
  intro w y
  obtain ⟨htun, hfloor, hsmooth, -⟩ := hs
  have hraw : at0 (filterbank cfg (waveform samples)) k = natAt t.frame.raw k := by
    obtain ⟨-, -, -, hfield, -⟩ := ticks_frame_fields h
    rw [hfield, natAt_map_u32 (by decide) (filterbank_within _)]
  have hloud : at0 cfg.loud k = (cfg.loud.getD k 0).toNat :=
    (Int.toNat_of_nonneg (at0_nonneg (by decide +kernel) k)).symm
  obtain ⟨-, -, -, hknee, halpha⟩ := id htun
  have hw : w ≤ 65535 := min_le_right _ _
  have hy : y ≤ 65535 := compressed_le _ hknee.1 hw
  have hfloorLe := emaNat_le halpha.2 (arrayWithin_natAt_le hfloor k) hw
  have hsmoothLe := emaNat_le (smoothCoef_bounds htun y (natAt s.post.smooth k)).2 (arrayWithin_natAt_le hsmooth k) hy
  rw [ticks_post h]
  refine ⟨natAt_map_range hk (by omega) ?_, natAt_map_range hk (by omega) ?_⟩
  · rw [hraw, hloud, at0_uvals, binFloor_natCast htun]
  · rw [hraw, hloud, at0_uvals, at0_uvals, binSmooth_natCast htun]

/-- Settles O27: each stage on natural numbers, bin by bin (R200, R202 to R205). -/
theorem postProcessor : Obligations.PostProcessor := by
  intro s ts samples t h htun hspec
  obtain ⟨-, hfloor, hsmooth, -⟩ := ticks_keeps_spectralLegal h ⟨htun, hspec⟩
  obtain ⟨-, -, -, hpost, -, -, -, hframe, -⟩ := ticks_fields h
  refine ⟨hfloor.1, hsmooth.1, ?_, fun k hk => ticks_bin h ⟨htun, hspec⟩ hk⟩
  rw [hframe, hpost]
  rfl

/-! ### The decay on constant chunks -/

/-- On a constant chunk every bin is pulled towards 0: its magnitude is 0, and so is what is above its floor (R207). -/
theorem constant_ticks_decay {s t : State} {ts : Word} {v : Half} (h : ticks s ts (List.replicate 128 v) t)
    (hs : spectralLegal s) {k : Nat} (hk : k < 64) :
    natAt t.post.floor k ≤ natAt s.post.floor k - 1 ∧ natAt t.post.smooth k ≤ natAt s.post.smooth k - 1 := by
  obtain ⟨-, -, -, hraw, -⟩ := constantChunkIsSilent s ts v t h
  have hsilent : weighted (cfg.loud.getD k 0).toNat (natAt t.frame.raw k) = 0 := by
    have hzero : natAt (List.replicate 64 0) k = 0 := by
      rw [natAt, List.getD_replicate _ hk]
      rfl
    rw [hraw, hzero, weighted, Nat.zero_mul]
    rfl
  obtain ⟨hfloor, hsmooth⟩ := ticks_bin h hs hk
  rw [hsilent] at hfloor hsmooth
  rw [compressed_zero] at hsmooth
  have hcoef := smoothCoef_bounds hs.1 0 (natAt s.post.smooth k)
  obtain ⟨⟨-, -, -, -, halpha⟩, -⟩ := hs
  exact ⟨hfloor.trans_le (emaNat_zero_le halpha.1 halpha.2), hsmooth.trans_le (emaNat_zero_le hcoef.1 hcoef.2)⟩

/-- A sequence that falls by at least 1 a step, down to 0. -/
theorem le_sub_of_decay {g : Nat → Nat} {top : Nat} (h0 : g 0 ≤ top) (h : ∀ n, g (n + 1) ≤ g n - 1) (n : Nat) :
    g n ≤ top - n := by
  induction n with
  | zero => exact h0
  | succ n ih =>
    have := h n
    omega

theorem eq_replicate_of_natAt_zero {l : List Word} {len : Nat} (hlen : l.length = len)
    (h : ∀ k, k < len → natAt l k = 0) : l = List.replicate len 0 := by
  refine List.eq_replicate_iff.2 ⟨hlen, fun w hw => ?_⟩
  obtain ⟨k, hk, rfl⟩ := List.mem_iff_getElem.1 hw
  have hzero := h k (hlen ▸ hk)
  rw [natAt, List.getD_eq_getElem l 0 hk] at hzero
  exact BitVec.eq_of_toNat_eq hzero

theorem run_keeps_spectralLegal {f : Nat → State} {ts : Nat → Word} {samples : Nat → List Half}
    (h0 : spectralLegal (f 0)) (hrun : ∀ n, ticks (f n) (ts n) (samples n) (f (n + 1))) (n : Nat) :
    spectralLegal (f n) := by
  induction n with
  | zero => exact h0
  | succ n ih => exact ticks_keeps_spectralLegal (hrun n) ih

/-- Settles O28: every entry starts at 65535 or less and falls by at least 1 a tick (R207). -/
theorem silentSteadyState : Obligations.SilentSteadyState := by
  intro f ts v htun hspec hrun n hn
  have hlegal := run_keeps_spectralLegal (samples := fun n => List.replicate 128 (v n)) ⟨htun, hspec⟩ hrun
  have hdecay := fun k (hk : k < 64) n => constant_ticks_decay (hrun n) (hlegal n) hk
  obtain ⟨-, hfloor, hsmooth, -⟩ := hlegal n
  obtain ⟨hfloor0, hsmooth0, -⟩ := hspec
  refine ⟨eq_replicate_of_natAt_zero hfloor.1 fun k hk => ?_, eq_replicate_of_natAt_zero hsmooth.1 fun k hk => ?_⟩
  · have := le_sub_of_decay (g := fun n => natAt (f n).post.floor k) (arrayWithin_natAt_le hfloor0 k)
      (fun n => (hdecay k hk n).1) n
    omega
  · have := le_sub_of_decay (g := fun n => natAt (f n).post.smooth k) (arrayWithin_natAt_le hsmooth0 k)
      (fun n => (hdecay k hk n).2) n
    omega

end Sys2Proof.Machine
end

section
/-! PROOFS. The summaries of a tick: saturating sums over pitch classes and bands (R221, R222), spectral flux (R223), and
no flux between equal spectra (R224). -/

namespace Sys2Proof.Machine

/-! ### Saturating sums on values that are not negative -/

/-- Clamping every partial sum is clamping the sum, where nothing is negative (R12). -/
theorem satSum_natCast (ceil : Nat) (l : List Nat) : satSum ceil (l.map Nat.cast) = (min l.sum ceil : Nat) := by
  induction l using List.reverseRecOn with
  | nil => exact Int.ofNat_inj.2 (Nat.zero_min ceil).symm
  | append_singleton l v ih =>
    have hstep : satSum ceil ((l ++ [v]).map Nat.cast) = satadd (satSum ceil (l.map Nat.cast)) v ceil := by
      rw [List.map_append, satSum, List.foldl_append]
      rfl
    rw [hstep, ih, satadd, List.sum_append, List.sum_singleton]
    omega

/-- A saturating sum of the entries of a stored array at some bins. -/
theorem satSum_at0_uvals (ceil : Nat) (bins : List Nat) (ws : List Word) :
    satSum ceil (bins.map (at0 (uvals ws))) = (min (bins.map (natAt ws)).sum ceil : Nat) := by
  rw [← satSum_natCast, List.map_map]
  exact congrArg _ (List.map_congr_left fun k _ => at0_uvals ws k)

/-! ### The three summaries of stored arrays -/

/-- The class of bin `k` is `(k + 9) mod 12`: the printed map, read off (R221). -/
theorem pcmap_eq_iff {k cl : Nat} (hk : k < 64) : (cfg.pcmap.getD k 0 == cl) = true ↔ (k + 9) % 12 = cl := by
  have hmap : ∀ k, k < 64 → cfg.pcmap.getD k 0 = (k + 9) % 12 := by decide +kernel
  rw [beq_iff_eq, hmap k hk]

/-- A pitch class sums over all bins, those of other classes as 0 (R221). -/
theorem pitchClass_uvals (raw : List Word) (cl : Nat) : pitchClass cfg (uvals raw) cl
    = (min ((List.range 64).map fun k => if (k + 9) % 12 = cl then natAt raw k else 0).sum 65536 : Nat) := by
  have hbins : (List.range 64).filter (fun k => cfg.pcmap.getD k 0 == cl)
      = (List.range 64).filter (fun k => (k + 9) % 12 = cl) :=
    List.filter_congr fun k hk => Bool.eq_iff_iff.2 <| by
      rw [pcmap_eq_iff (List.mem_range.1 hk), decide_eq_true_iff]
  have hsum := List.sum_map_ite (fun k => (k + 9) % 12 = cl) (natAt raw) (fun _ => 0) (List.range 64)
  rw [List.sum_map_zero, add_zero] at hsum
  rw [hsum, ← hbins]
  exact satSum_at0_uvals 65536 _ raw

/-- Band `b` is the 16 bins from `16 * b` (R8, R222). -/
theorem binsOf_bandRange {b : Nat} (hb : b < 4) : binsOf (bandRange cfg b) = (List.range 16).map fun j => 16 * b + j := by
  have hall : ∀ b, b < 4 → binsOf (bandRange cfg b) = (List.range 16).map fun j => 16 * b + j := by decide +kernel
  exact hall b hb

theorem satSum_band_uvals (smooth : List Word) {b : Nat} (hb : b < 4) :
    satSum cfg.bandCeil ((binsOf (bandRange cfg b)).map (at0 (uvals smooth)))
      = (min ((List.range 16).map fun j => natAt smooth (16 * b + j)).sum 65536 : Nat) := by
  rw [binsOf_bandRange hb, show cfg.bandCeil = (65536 : Nat) from rfl, satSum_at0_uvals, List.map_map]
  rfl

/-- The rise of a bin is the truncated difference of its magnitudes (R223). -/
theorem fluxSum_uvals (raw prev : List Word) : fluxSum cfg (uvals raw) (uvals prev)
    = (((List.range 64).map fun k => natAt raw k - natAt prev k).sum : Nat) := by
  rw [fluxSum, Nat.cast_list_sum, List.map_map]
  refine congrArg List.sum (List.map_congr_left fun k _ => ?_)
  rw [at0_uvals, at0_uvals, Function.comp_apply]
  omega

theorem fluxNovelty_uvals (raw prev : List Word) : fluxNovelty cfg (uvals raw) (uvals prev)
    = (min ((List.range 64).map fun k => natAt raw k - natAt prev k).sum 65536 : Nat) := by
  rw [fluxNovelty, fluxSum_uvals, Nat.cast_min]
  rfl

/-- Equal spectra have no flux (R224). -/
theorem fluxNovelty_self (raw : List Word) : fluxNovelty cfg (uvals raw) (uvals raw) = 0 := by
  simp only [fluxNovelty_uvals, Nat.sub_self, List.sum_map_zero, Nat.zero_min, Nat.cast_zero]

/-! ### The summaries a tick publishes -/

/-- An array stored in u32 fields reads back as it was. -/
theorem uvals_map_u32 {l : List Int} {top : Nat} (htop : top < 4294967296) (h : valuesWithin l top) :
    uvals (l.map u32) = l := by
  rw [uvals, List.map_map]
  refine (List.map_congr_left fun v hv => ?_).trans (List.map_id l)
  obtain ⟨h0, h1⟩ := h v hv
  exact uval_u32 h0 (h1.trans_lt (Int.ofNat_lt.2 htop))

/-- A stored value that fits its field reads back as it was. -/
theorem u32_natCast_toNat {v : Nat} (hv : v < 4294967296) : (u32 (v : Int)).toNat = v :=
  Int.ofNat_inj.1 (uval_u32 (Int.natCast_nonneg v) (Int.ofNat_lt.2 hv))

/-- The summaries of a tick, from the magnitudes it publishes and the previous ones (R221 to R224). -/
theorem ticks_summary_fields {s t : State} {ts : Word} {samples : List Half} (h : ticks s ts samples t) :
    t.rawprev = t.frame.raw ∧ t.frame.smooth = t.post.smooth
      ∧ t.frame.pitch = (List.range 12).map (fun c => u32 (pitchClass cfg (uvals t.frame.raw) c))
      ∧ t.frame.band = (List.range 4).map (fun b =>
          u32 (satSum cfg.bandCeil ((binsOf (bandRange cfg b)).map (at0 (uvals t.post.smooth)))))
      ∧ t.frame.novelty = u32 (fluxNovelty cfg (uvals t.frame.raw) (uvals s.rawprev)) := by
  obtain ⟨-, -, -, hraw, hpitch, hnovelty⟩ := ticks_frame_fields h
  obtain ⟨-, -, -, hpost, hrawprev, -, -, hframe, -⟩ := ticks_fields h
  have hread : uvals t.frame.raw = filterbank cfg (waveform samples) := by
    rw [hraw, uvals_map_u32 (by decide) (filterbank_within _)]
  refine ⟨?_, ?_, ?_, ?_, by rw [hnovelty, hread]⟩
  · rw [hrawprev, hframe]
    rfl
  · rw [hframe, hpost]
    rfl
  · rw [hpitch, hread, pitchClasses, List.map_map]
    rfl
  · rw [hframe, hpost, tickFrame, bandSummary, List.map_map]
    rfl

/-- Settles O29: each summary as a clamped sum over the published magnitudes, and a second tick on the same samples has the
raw magnitudes of the first as its own and as its previous ones (R221 to R224). -/
theorem summaries : Obligations.Summaries := by
  intro s ts samples t h
  obtain ⟨hrawprev, hsmooth, hpitch, hband, hnovelty⟩ := ticks_summary_fields h
  refine ⟨by simp [hpitch], by simp [hband], hsmooth, hrawprev, fun c hc => ?_, fun b hb => ?_, ?_, fun ts' u hu => ?_⟩
  · rw [hpitch]
    exact natAt_map_range hc (by omega) (pitchClass_uvals _ _)
  · rw [hband]
    exact natAt_map_range hb (by omega) (satSum_band_uvals _ hb)
  · rw [hnovelty, fluxNovelty_uvals, u32_natCast_toNat (by omega)]
  · have hraw : u.frame.raw = t.frame.raw := by
      obtain ⟨-, -, -, hrawT, -⟩ := ticks_frame_fields h
      obtain ⟨-, -, -, hrawU, -⟩ := ticks_frame_fields hu
      rw [hrawU, hrawT]
    obtain ⟨-, -, -, -, hnoveltyU⟩ := ticks_summary_fields hu
    refine ⟨hraw, ?_⟩
    rw [hnoveltyU, hrawprev, hraw, fluxNovelty_self]
    rfl

end Sys2Proof.Machine
end

section
/-! PROOFS. The tempo front end's window and its gate (R240 to R242), and the exact DFT of the windowed samples (R245). -/

namespace Sys2Proof.Machine

/-! ### What one tick does to the front end -/

/-- The spectrum of the window once the chunk is in (R240, R245). -/
def windowSpectrum (x : List Int) (f : Front) : List Int :=
  spectrum cfg ((shiftWindow cfg f.tbuf x).map BitVec.toInt)

/-- The three ways a tick can go: the gate is closed, a first spectrum is kept, or a novelty is made (R241, R242). -/
theorem frontStage_cases (x : List Int) (f : Front) :
    (¬ 256 ≤ f.tfill.toNat + 128 ∧ (frontStage cfg x f).1 = ingest cfg x f)
      ∨ (256 ≤ f.tfill.toNat + 128 ∧ f.havePrev = false
          ∧ (frontStage cfg x f).1 = keepSpectrum (windowSpectrum x f) (ingest cfg x f))
      ∨ (256 ≤ f.tfill.toNat + 128 ∧ f.havePrev = true
          ∧ (frontStage cfg x f).1
              = keepSpectrum (windowSpectrum x f) (onsetStage cfg (windowSpectrum x f) (ingest cfg x f)).1) := by
  by_cases hopen : 256 ≤ f.tfill.toNat + 128
  · cases hprev : f.havePrev with
    | false =>
      refine .inr (.inl ⟨hopen, rfl, ?_⟩)
      rw [frontStage, if_pos ((gateOpen_iff f).2 hopen), hprev]
      rfl
    | true =>
      refine .inr (.inr ⟨hopen, rfl, ?_⟩)
      rw [frontStage_novelty x f hopen hprev]
      rfl
  · refine .inl ⟨hopen, ?_⟩
    rw [frontStage, if_neg (mt (gateOpen_iff f).1 hopen)]

theorem frontStage_tbuf (x : List Int) (f : Front) : (frontStage cfg x f).1.tbuf = shiftWindow cfg f.tbuf x := by
  obtain ⟨-, hf⟩ | ⟨-, -, hf⟩ | ⟨-, -, hf⟩ := frontStage_cases x f <;> rw [hf] <;> rfl

theorem frontStage_tfill (x : List Int) (f : Front) :
    (frontStage cfg x f).1.tfill = u16 (min (uval f.tfill + cfg.n) cfg.nt) := by
  obtain ⟨-, hf⟩ | ⟨-, -, hf⟩ | ⟨-, -, hf⟩ := frontStage_cases x f <;> rw [hf] <;> rfl

/-- A closed gate keeps no spectrum (R241). -/
theorem frontStage_closed {f : Front} (hclosed : ¬ 256 ≤ f.tfill.toNat + 128) (x : List Int) :
    (frontStage cfg x f).1 = ingest cfg x f := by
  obtain ⟨-, hf⟩ | ⟨hopen, -⟩ | ⟨hopen, -⟩ := frontStage_cases x f
  · exact hf
  · exact absurd hopen hclosed
  · exact absurd hopen hclosed

/-- An open gate keeps the spectrum of the window (R242). -/
theorem frontStage_open {f : Front} (hopen : 256 ≤ f.tfill.toNat + 128) (x : List Int) :
    (frontStage cfg x f).1.mprev = (windowSpectrum x f).map u32 ∧ (frontStage cfg x f).1.havePrev = true := by
  obtain ⟨hclosed, -⟩ | ⟨-, -, hf⟩ | ⟨-, -, hf⟩ := frontStage_cases x f
  · exact absurd hopen hclosed
  · rw [hf]; exact ⟨rfl, rfl⟩
  · rw [hf]; exact ⟨rfl, rfl⟩

section
variable {s t : State} {ts : Word} {samples : List Half}

theorem ticks_front (h : ticks s ts samples t) : t.front = (frontStage cfg (waveform samples) s.front).1 := by
  obtain ⟨-, -, -, -, -, hfront, -⟩ := ticks_fields h
  rw [hfront, tickValues_front, waveform]

/-- The window after a tick: 128 samples out, the published waveform in (R240). -/
theorem ticks_tbuf (h : ticks s ts samples t) : t.front.tbuf = s.front.tbuf.drop 128 ++ t.frame.wave := by
  rw [ticks_front h, frontStage_tbuf, (ticks_frame_fields h).1]
  rfl

theorem ticks_tfill (h : ticks s ts samples t) : t.front.tfill.toNat = min (s.front.tfill.toNat + 128) 256 := by
  have hn : (cfg.n : Int) = 128 := rfl
  have hnt : (cfg.nt : Int) = 256 := rfl
  have hread := uval_u16 (v := min (uval s.front.tfill + 128) 256) (by unfold uval; omega) (by omega)
  rw [ticks_front h, frontStage_tfill, hn, hnt]
  unfold uval at hread ⊢
  omega

/-- The spectrum that a tick with an open gate keeps is that of the window it leaves (R242, R245). -/
theorem ticks_mprev (h : ticks s ts samples t) (hopen : 256 ≤ s.front.tfill.toNat + 128) :
    t.front.mprev = (spectrum cfg (t.front.tbuf.map BitVec.toInt)).map u32 := by
  rw [ticks_front h, (frontStage_open hopen _).1, frontStage_tbuf]
  rfl

/-- The rings after a tick that makes a novelty are those of the onset stage (R246 to R250). -/
theorem ticks_rings (h : ticks s ts samples t) (hnovelty : noveltyMade s) :
    let r := (onsetStage cfg (windowSpectrum (waveform samples) s.front) (ingest cfg (waveform samples) s.front)).1
    t.front.med = r.med ∧ t.front.hmix = r.hmix ∧ t.front.hlow = r.hlow ∧ t.front.hmh = r.hmh := by
  rw [ticks_front h, frontStage_novelty _ _ hnovelty.1 hnovelty.2]
  exact ⟨rfl, rfl, rfl, rfl⟩

end

/-- Settles O30: the window and its fill at every tick, and the rings by whether the gate is open and a previous spectrum
exists (R240 to R242, R250). -/
theorem windowAndGate : Obligations.WindowAndGate := by
  intro s ts samples t h
  have hfront := ticks_front h
  refine ⟨ticks_tbuf h, ticks_tfill h, fun hshort => ?_, fun hopen => ?_, fun hnone => ?_, fun hnovelty => ?_⟩
  · rw [hfront, frontStage_closed (by omega)]
    exact ⟨rfl, rfl⟩
  · refine ⟨?_, ?_⟩
    · rw [ticks_mprev h hopen, List.length_map, spectrum_length]
    · rw [hfront, (frontStage_open hopen _).2]
  · rw [hfront]
    exact (frontStage_no_novelty _ _ hnone).2
  · obtain ⟨-, hmix, hlow, hmh⟩ := ticks_rings h hnovelty
    exact ⟨_, _, _, hmix, hlow, hmh⟩

/-! ### The spectrum -/

/-- A sum over the window, index by index. -/
theorem windowSum_eq_sumTo (xw : List Int) (g : Nat → Int) :
    windowSum xw g = sumTo xw.length fun n => at0 xw n * g n := by
  refine congrArg List.sum (List.ext_getElem (by simp) fun i hi hi' => ?_)
  simp only [List.length_map, List.length_range] at hi'
  simp [at0_of_lt hi']

theorem abs_sumTo_le {n : Nat} {g : Nat → Int} {top : Int} (h : ∀ i, i < n → |g i| ≤ top) : |sumTo n g| ≤ n * top := by
  induction n with
  | zero => simp [sumTo]
  | succ n ih =>
    have hsum : sumTo (n + 1) g = sumTo n g + g n := by simp [sumTo, List.range_succ]
    calc |sumTo (n + 1) g| ≤ |sumTo n g| + |g n| := hsum ▸ abs_add_le _ _
      _ ≤ n * top + top := add_le_add (ih fun i hi => h i (by omega)) (h n (by omega))
      _ = (n + 1 : Nat) * top := by push_cast; ring

theorem wt_length : cfg.wt.length = 256 := by decide +kernel

theorem wt_within : valuesWithin cfg.wt 32768 := by
  unfold valuesWithin
  decide +kernel

theorem abs_cos_le (i : Nat) : |at0 cfg.cos i| ≤ 32768 := by
  have hall : ∀ v ∈ cfg.cos, |v| ≤ 32768 := by decide +kernel
  by_cases hi : i < cfg.cos.length
  · exact hall _ (at0_mem hi)
  · rw [at0, List.getD_eq_default _ _ (by omega)]
    norm_num

theorem toInt_half_within (l : List Half) : ∀ v ∈ l.map BitVec.toInt, -32768 ≤ v ∧ v ≤ 32767 := by
  intro v hv
  obtain ⟨w, -, rfl⟩ := List.mem_map.1 hv
  exact ⟨w.le_toInt, Int.le_of_lt_add_one w.toInt_lt⟩

/-- The samples of a stored window, windowed, stay in the i16 range (R245). -/
theorem abs_windowed_le (l : List Half) (n : Nat) : |at0 (windowed (l.map BitVec.toInt) cfg.wt) n| ≤ 32768 := by
  by_cases hn : n < (windowed (l.map BitVec.toInt) cfg.wt).length
  · obtain ⟨hl, hw⟩ := lt_min_iff.1 (windowed_length _ _ ▸ hn)
    obtain ⟨hw0, hw1⟩ := at0_within (by norm_num) wt_within n
    obtain ⟨hv0, hv1⟩ := toInt_half_within l _ (at0_mem hl)
    rw [at0_windowed hl hw, abs_le]
    exact ⟨Int.le_ediv_of_mul_le (by norm_num) (by nlinarith), Int.ediv_le_of_le_mul (by norm_num) (by nlinarith)⟩
  · rw [at0, List.getD_eq_default _ _ (by omega)]
    norm_num

/-- The squares of the real and of the imaginary part of a bin are at most 2^76 (R245). -/
theorem windowSum_mul_self_le (l : List Half) {g : Nat → Int} (hg : ∀ n, |g n| ≤ 32768) :
    windowSum (windowed (l.map BitVec.toInt) cfg.wt) g * windowSum (windowed (l.map BitVec.toInt) cfg.wt) g ≤ 2 ^ 76 := by
  have hlen : (windowed (l.map BitVec.toInt) cfg.wt).length ≤ 256 := by
    rw [windowed_length, wt_length]
    exact min_le_right _ _
  have hsum : |windowSum (windowed (l.map BitVec.toInt) cfg.wt) g| ≤ 2 ^ 38 := by
    rw [windowSum_eq_sumTo]
    refine (abs_sumTo_le (top := 32768 * 32768) fun n _ => ?_).trans (by omega)
    rw [abs_mul]
    exact mul_le_mul (abs_windowed_le l n) (hg n) (abs_nonneg _) (by norm_num)
  rw [← abs_mul_abs_self]
  exact mul_le_mul hsum hsum (abs_nonneg _) (by norm_num)

/-- A bin from the root of its energy (R245). -/
theorem spectrumBin_eq_root (xw : List Int) (j : Nat) :
    let re := windowSum xw fun n => cosAt cfg (j * n)
    let im := -windowSum xw fun n => sinAt cfg (j * n)
    ∃ r : Nat, isRoot r (re * re + im * im) ∧ spectrumBin cfg xw j = (4 * r / 4194103 : Nat) := by
  have hsum : wtSum cfg = 4194103 := by decide +kernel
  refine ⟨_, isRoot_isqrt (add_nonneg (mul_self_nonneg _) (mul_self_nonneg _)), ?_⟩
  push_cast
  rw [Int.toNat_of_nonneg (isqrt_nonneg _), ← hsum]
  rfl

/-- The magnitudes of a stored window are below 2^20, so they fit their fields (R245). -/
theorem spectrum_within (l : List Half) : valuesWithin (spectrum cfg (l.map BitVec.toInt)) (1048575 : Nat) := by
  intro v hv
  obtain ⟨i, -, rfl⟩ := List.mem_map.1 hv
  obtain ⟨r, ⟨hroot, -⟩, hbin⟩ := spectrumBin_eq_root (windowed (l.map BitVec.toInt) cfg.wt) (i + 1)
  have hre := windowSum_mul_self_le l fun n => abs_cos_le ((i + 1) * n % 256)
  have him := windowSum_mul_self_le l fun n => abs_cos_le (((i + 1) * n + 192) % 256)
  have hr : (r : Int) ≤ 2 ^ 39 := by
    simp only [cosAt, sinAt] at hroot
    nlinarith
  rw [hbin]
  omega

theorem at0_spectrum (b : List Int) {j : Nat} (h1 : 1 ≤ j) (hj : j < 128) :
    at0 (spectrum cfg b) (j - 1) = spectrumBin cfg (windowed b cfg.wt) j := by
  rw [at0_of_lt (by rw [spectrum_length]; omega)]
  simp only [spectrum, List.getElem_map, List.getElem_range, Nat.sub_add_cancel h1]

/-- A sum over a full window of stored samples, from the samples (R245). -/
theorem windowSum_windowed {l : List Half} (hl : l.length = 256) (g : Nat → Int) :
    windowSum (windowed (l.map BitVec.toInt) cfg.wt) g
      = sumTo 256 fun n => sampleAt l n * cfg.wt.getD n 0 / 32768 * g n := by
  have hlen : (l.map BitVec.toInt).length = 256 := by rw [List.length_map, hl]
  rw [windowSum_eq_sumTo, windowed_length, hlen, wt_length, min_self]
  refine sumTo_congr fun n hn => ?_
  rw [at0_windowed (by rwa [hlen]) (by rwa [wt_length]), sampleAt, at0, show (0 : Int) = (0 : Half).toInt from rfl,
    List.getD_map]
  rfl

/-- Settles O31: the kept magnitude of a bin reads back as the bin of the window's spectrum, whose two sums run over the
stored samples (R242, R245). -/
theorem spectrumBins : Obligations.SpectrumBins := by
  intro s ts samples t h hshape hopen j h1 hj xw re im
  have hlen : t.front.tbuf.length = 256 := by
    obtain ⟨hbuf, -⟩ := hshape
    rw [ticks_front h, frontStage_tbuf, shiftWindow_length hbuf (waveform_length samples)]
  obtain ⟨r, hroot, hbin⟩ := spectrumBin_eq_root (windowed (t.front.tbuf.map BitVec.toInt) cfg.wt) j
  rw [windowSum_windowed hlen, windowSum_windowed hlen] at hroot
  refine ⟨r, hroot, ?_⟩
  have hkept := natAt_map_u32 (by decide) (spectrum_within t.front.tbuf) (j - 1)
  rw [← ticks_mprev h hopen, at0_spectrum _ h1 hj, hbin] at hkept
  exact Int.ofNat_inj.1 hkept

end Sys2Proof.Machine
end

section
/-! PROOFS. The novelty of a tick: medians of integers, the onsets of the four bands on stored spectra (R246), the rings of
their onsets (R247), and the three values pushed on the history rings (R248 to R250). -/

namespace Sys2Proof.Machine

/-! ### The median -/

/-- A median of values that are not negative is not negative (R247). -/
theorem median_nonneg {v : List Int} (h : ∀ a ∈ v, 0 ≤ a) : 0 ≤ median v := by
  have hentry := at0_nonneg (l := v.insertionSort (· ≤ ·)) fun a ha => h a ((List.mem_insertionSort _).1 ha)
  unfold median
  dsimp only
  split_ifs
  · exact hentry _
  · exact Int.ediv_nonneg (add_nonneg (hentry _) (hentry _)) (by norm_num)

/-- The median is read off the sorted values (R247). -/
theorem median_spec (v : List Int) : ∃ srt : List Int, srt.Perm v ∧ srt.Pairwise (· ≤ ·)
    ∧ (v.length % 2 = 1 → median v = srt.getD ((v.length - 1) / 2) 0)
    ∧ (v.length % 2 = 0 → median v = (srt.getD (v.length / 2 - 1) 0 + srt.getD (v.length / 2) 0) / 2) := by
  refine ⟨_, List.perm_insertionSort _ v, List.pairwise_insertionSort (· ≤ ·) v, fun hodd => ?_, fun heven => ?_⟩
  · exact if_pos hodd
  · exact if_neg (by omega)

/-! ### The onsets of stored spectra -/

/-- The edges of the onset bands: band `b` is the bins from edge `b` to below edge `b + 1` (R246). -/
def bandEdge (b : Nat) : Nat := [1, 4, 16, 64, 128].getD b 0

/-- The onset of band `b`, from the magnitudes stored at this tick and at the tick before (R246). -/
def bandOnset (m prev : List Word) (b : Nat) : Nat :=
  ((List.range (bandEdge (b + 1) - bandEdge b)).map fun i =>
    natAt m (bandEdge b + i - 1) - natAt prev (bandEdge b + i - 1)).sum

/-- The novelty of band `b`, from its onset and the rings with the onsets in them (R248). -/
def bandNov (m prev : List Word) (rings : List (List Word)) (b : Nat) : Int :=
  max 0 ((bandOnset m prev b : Int) - median (uvals (rings.getD b [])))

theorem onsetBand_uvals (m prev : List Word) (b : Nat) :
    onsetBand (uvals m) (uvals prev) (bandEdge b, bandEdge (b + 1)) = bandOnset m prev b := by
  rw [onsetBand, bandOnset, binsOf, Nat.cast_list_sum, List.map_map, List.map_map]
  refine congrArg List.sum (List.map_congr_left fun i _ => ?_)
  simp only [Function.comp_apply, at0_uvals, Nat.add_comm i]
  omega

theorem onsets_uvals (m prev : List Word) : cfg.tbands.map (onsetBand (uvals m) (uvals prev))
    = (List.range 4).map fun b => (bandOnset m prev b : Int) := by
  rw [show cfg.tbands = (List.range 4).map fun b => (bandEdge b, bandEdge (b + 1)) from rfl, List.map_map]
  exact List.map_congr_left fun b _ => onsetBand_uvals m prev b

/-- An onset is at most the top magnitude in each of at most 64 bins (R246). -/
theorem bandOnset_le {m : List Word} {top : Nat} (h : ∀ k, natAt m k ≤ top) (prev : List Word) {b : Nat} (hb : b < 4) :
    bandOnset m prev b ≤ 64 * top := by
  have hwidth : ∀ b, b < 4 → bandEdge (b + 1) - bandEdge b ≤ 64 := by decide
  refine (List.sum_le_card_nsmul _ top ?_).trans ?_
  · intro v hv
    obtain ⟨i, -, rfl⟩ := List.mem_map.1 hv
    exact (Nat.sub_le _ _).trans (h _)
  · rw [List.length_map, List.length_range, smul_eq_mul]
    exact Nat.mul_le_mul_right top (hwidth b hb)

/-- A band's novelty is between 0 and its onset, since the median of a ring is not negative (R248). -/
theorem bandNov_within (m prev : List Word) (rings : List (List Word)) (b : Nat) :
    0 ≤ bandNov m prev rings b ∧ bandNov m prev rings b ≤ bandOnset m prev b := by
  have hmedian := median_nonneg (uvals_nonneg (rings.getD b []))
  unfold bandNov
  omega

/-! ### The onset stage on stored spectra -/

theorem onsetStage_med (c : Cfg) (mag : List Int) (f : Front) : (onsetStage c mag f).1.med
    = List.zipWith (pushMedian c) f.med (c.tbands.map (onsetBand mag (uvals f.mprev))) := rfl

/-- The three values pushed on the history rings (R249, R250). -/
theorem onsetStage_history (c : Cfg) (mag : List Int) (f : Front) :
    (onsetStage c mag f).1.hmix = push f.hmix (u32 (onsetStage c mag f).2.mix) c.h
      ∧ (onsetStage c mag f).1.hlow = push f.hlow (u32 (onsetStage c mag f).2.low) c.h
      ∧ (onsetStage c mag f).1.hmh = push f.hmh (u32 (onsetStage c mag f).2.mh) c.h := ⟨rfl, rfl, rfl⟩

section
variable {f : Front} (m : List Word)

theorem onsetStage_med_length (hmed : f.med.length = 4) (mag : List Int) :
    (onsetStage cfg mag f).1.med.length = 4 := by
  rw [onsetStage_med, List.length_zipWith, hmed]
  rfl

/-- Each band's ring takes its onset, at most 8 deep (R247). -/
theorem onsetStage_med_getD (hmed : f.med.length = 4) {b : Nat} (hb : b < 4) :
    (onsetStage cfg (uvals m) f).1.med.getD b []
      = push (f.med.getD b []) (BitVec.ofNat 32 (bandOnset m f.mprev b)) 8 := by
  rw [List.getD_eq_getElem _ _ (by rwa [onsetStage_med_length hmed]), List.getD_eq_getElem _ _ (by rwa [hmed])]
  simp only [onsetStage_med, onsets_uvals, List.getElem_zipWith, List.getElem_map, List.getElem_range, pushMedian, u32,
    BitVec.ofInt_natCast]
  rfl

/-- The novelty triple mixes the four bands' novelties (R248, R249). -/
theorem onsetStage_novelty (hmed : f.med.length = 4) : (onsetStage cfg (uvals m) f).2
    = mixNovelty cfg ((List.range 4).map (bandNov m f.mprev (onsetStage cfg (uvals m) f).1.med)) := by
  have hlen := onsetStage_med_length hmed (uvals m)
  have hdef : (onsetStage cfg (uvals m) f).2 = mixNovelty cfg (List.zipWith bandNovelty
    (cfg.tbands.map (onsetBand (uvals m) (uvals f.mprev))) (onsetStage cfg (uvals m) f).1.med) := rfl
  rw [hdef, onsets_uvals]
  refine congrArg _ (List.ext_getElem (by simp [hlen]) fun b hb hb' => ?_)
  rw [List.length_map, List.length_range] at hb'
  simp only [List.getElem_zipWith, List.getElem_map, List.getElem_range, bandNovelty, bandNov]
  rw [List.getD_eq_getElem _ _ (by rwa [hlen])]

end

/-- The mix of four novelties with the weights of the reference configuration (R249). -/
theorem mixNovelty_four (nov : Nat → Int) :
    (mixNovelty cfg ((List.range 4).map nov)).mix
        = (32768 * nov 0 + 16384 * nov 1 + 9830 * nov 2 + 6554 * nov 3) / 65536
      ∧ (mixNovelty cfg ((List.range 4).map nov)).low = nov 0
      ∧ (mixNovelty cfg ((List.range 4).map nov)).mh = min (nov 1 + nov 2 + nov 3) 4294967295 := by
  have hrange : (List.range 4).map nov = [nov 0, nov 1, nov 2, nov 3] := rfl
  have hweights : cfg.mixw = [32768, 16384, 9830, 6554] := rfl
  rw [hrange]
  refine ⟨?_, rfl, ?_⟩
  · simp only [mixNovelty, hweights, List.zipWith_cons_cons, List.zipWith_nil_left, List.sum_cons, List.sum_nil, fdiv]
    ring_nf
  · simp only [mixNovelty, List.drop_succ_cons, List.drop_zero, List.sum_cons, List.sum_nil]
    ring_nf

/-! ### The statement -/

section
variable {s t : State} {ts : Word} {samples : List Half}

/-- The magnitudes that a tick with an open gate stores, read back, are the spectrum of its window (R242, R245). -/
theorem ticks_uvals_mprev (h : ticks s ts samples t) (hopen : 256 ≤ s.front.tfill.toNat + 128) :
    uvals t.front.mprev = windowSpectrum (waveform samples) s.front := by
  rw [ticks_front h, (frontStage_open hopen _).1]
  exact uvals_map_u32 (by decide) (spectrum_within _)

theorem ticks_mprev_le (h : ticks s ts samples t) (hopen : 256 ≤ s.front.tfill.toNat + 128) (k : Nat) :
    natAt t.front.mprev k ≤ 1048575 := by
  rw [ticks_mprev h hopen]
  exact arrayWithin_natAt_le (arrayWithin_map_u32 (spectrum_length _) (spectrum_within _)) k

end

/-- Settles O32: the median from the sorted values, the rings band by band, and the mix of the four novelties, whose
sum over the upper three bands stays below its clamp (R246 to R250). -/
theorem noveltyPushed : Obligations.NoveltyPushed := by
  refine ⟨fun v _ => median_spec v, fun s ts samples t h hshape hnovelty => ?_⟩
  obtain ⟨-, -, hmed, -⟩ := hshape
  obtain ⟨hrings, hmix, hlow, hmh⟩ := ticks_rings h hnovelty
  obtain ⟨hpushMix, hpushLow, hpushMh⟩ := onsetStage_history cfg
    (windowSpectrum (waveform samples) s.front) (ingest cfg (waveform samples) s.front)
  have hmedIn : (ingest cfg (waveform samples) s.front).med.length = 4 := hmed
  rw [← ticks_uvals_mprev h hnovelty.1] at hrings hmix hlow hmh hpushMix hpushLow hpushMh
  rw [onsetStage_novelty _ hmedIn, ← hrings] at hpushMix hpushLow hpushMh
  obtain ⟨hvalMix, hvalLow, hvalMh⟩ := mixNovelty_four (bandNov t.front.mprev s.front.mprev t.front.med)
  refine ⟨fun b hb => ?_, ?_, ?_, ?_⟩
  · rw [hrings]
    exact onsetStage_med_getD _ hmedIn hb
  · rw [hmix, hpushMix]
    exact congrArg (fun v => push s.front.hmix (u32 v) 512) hvalMix
  · rw [hlow, hpushLow]
    exact congrArg (fun v => push s.front.hlow (u32 v) 512) hvalLow
  · have hbound : ∀ b, b < 4 → bandNov t.front.mprev s.front.mprev t.front.med b ≤ 64 * 1048575 := by
      intro b hb
      have hle := bandOnset_le (ticks_mprev_le h hnovelty.1) s.front.mprev hb
      have := (bandNov_within t.front.mprev s.front.mprev t.front.med b).2
      omega
    have h1 := hbound 1 (by norm_num)
    have h2 := hbound 2 (by norm_num)
    have h3 := hbound 3 (by norm_num)
    rw [min_eq_left (by omega)] at hvalMh
    rw [hmh, hpushMh]
    exact congrArg (fun v => push s.front.hmh (u32 v) 512) hvalMh

end Sys2Proof.Machine
end

section
/-! PROOFS. What one tick does to the tempo tracker, said once: the novelty it is handed, when the heavy update runs
(R272), what it writes, and what goes into the PLL (R289). -/

namespace Sys2Proof.Machine

/-! ### The novelty of a tick -/

/-- The novelty that the tick after `s` hands to the tracker (R251). -/
def tickNovelty (s : State) (samples : List Half) : Novelty := (frontStage cfg (waveform samples) s.front).2

theorem tickNovelty_of_not_made {s : State} (hnone : ¬ noveltyMade s) (samples : List Half) :
    tickNovelty s samples = noNovelty := (frontStage_no_novelty _ _ hnone).1

/-- The novelty made is that of the onset stage (R246 to R249). -/
theorem tickNovelty_of_made {s : State} (hmade : noveltyMade s) (samples : List Half) :
    tickNovelty s samples = (onsetStage cfg (windowSpectrum (waveform samples) s.front)
      (ingest cfg (waveform samples) s.front)).2 := by
  rw [tickNovelty, frontStage_novelty _ _ hmade.1 hmade.2]
  rfl

theorem tickNovelty_valid_iff (s : State) (samples : List Half) :
    (tickNovelty s samples).valid = true ↔ noveltyMade s := by
  by_cases hmade : noveltyMade s
  · rw [tickNovelty_of_made hmade]
    exact iff_of_true rfl hmade
  · rw [tickNovelty_of_not_made hmade]
    exact iff_of_false Bool.false_ne_true hmade

/-! ### The gate of the heavy update -/

theorem histFull_iff (f : Front) : histFull cfg f = true ↔ f.hmix.length = 512 := beq_iff_eq

/-- The tracker after the silence step, which the heavy update reads (R270). -/
def silenceTrack (s : State) (samples : List Half) : Track := silenceStep cfg (tickNovelty s samples) s.track

/-- Whether the heavy update runs at the tick from `s` to `t`, as the tracker computes it (R272). -/
def tickRan (s t : State) (samples : List Half) : Bool :=
  heavyGate cfg t.front (tickNovelty s samples) (silenceTrack s samples)

theorem tickRan_iff (s t : State) (samples : List Half) : tickRan s t samples = true ↔ heavyRan s t := by
  rw [tickRan, silenceTrack, heavyGate_silenceStep, heavyGate, Bool.and_eq_true,
    Bool.and_eq_true, histFull_iff, tickNovelty_valid_iff, beq_iff_eq, and_assoc, heavyRan]

/-! ### The tracker after a tick -/

@[simp] theorem silenceTrack_tmix (s : State) (samples : List Half) :
    (silenceTrack s samples).tmix = s.track.tmix := by rw [silenceTrack, silenceStep_tmix]
@[simp] theorem silenceTrack_tmh (s : State) (samples : List Half) :
    (silenceTrack s samples).tmh = s.track.tmh := by rw [silenceTrack, silenceStep_tmh]
@[simp] theorem silenceTrack_hold (s : State) (samples : List Half) :
    (silenceTrack s samples).hold = s.track.hold := by rw [silenceTrack, silenceStep_hold]

/-- The tracker that goes into the PLL at the tick from `s` to `t` (R270). -/
def pllInput (s t : State) (samples : List Half) : Track :=
  holdStep (laneSwitched t.front (tickNovelty s samples) s.track)
    (heavyStep cfg t.front (tickNovelty s samples) (silenceTrack s samples))

/-- The PLL's step at the tick from `s` to `t`, with its wrap flag (R289 to R291). -/
def tickPll (s t : State) (samples : List Half) : Track × Bool :=
  pllStep cfg (tickRan s t samples) (pllInput s t samples)

@[simp] theorem pllInput_period (s t : State) (samples : List Half) :
    (pllInput s t samples).period = s.track.period := by simp [pllInput, silenceTrack]
@[simp] theorem pllInput_phase (s t : State) (samples : List Half) :
    (pllInput s t samples).phase = s.track.phase := by simp [pllInput, silenceTrack]
@[simp] theorem pllInput_periodSet (s t : State) (samples : List Half) :
    (pllInput s t samples).periodSet = s.track.periodSet := by simp [pllInput, silenceTrack]
@[simp] theorem pllInput_conf (s t : State) (samples : List Half) :
    (pllInput s t samples).conf = s.track.conf := by simp [pllInput, silenceTrack]
@[simp] theorem pllInput_confOn (s t : State) (samples : List Half) :
    (pllInput s t samples).confOn = s.track.confOn := by simp [pllInput, silenceTrack]

/-- The tracker has the same lane state in both (R53). -/
def sameLanes (a b : Track) : Prop :=
  a.sel = b.sel ∧ a.ptarget = b.ptarget ∧ a.phitarget = b.phitarget ∧ a.selscore = b.selscore
    ∧ a.prevphi = b.prevphi ∧ a.prevphiV = b.prevphiV

/-- The tracker has the same tempograms, peak flag and lane state in both: all that a heavy update writes (R52, R53). -/
def sameHeavy (a b : Track) : Prop :=
  a.tmix = b.tmix ∧ a.tmh = b.tmh ∧ a.havePeak = b.havePeak ∧ sameLanes a b

theorem sameLanes.trans {a b c : Track} (hab : sameLanes a b) (hbc : sameLanes b c) : sameLanes a c := by
  obtain ⟨hsel, hptarget, hphitarget, hscore, hphi, hphiV⟩ := hbc
  unfold sameLanes
  rwa [← hsel, ← hptarget, ← hphitarget, ← hscore, ← hphi, ← hphiV]

theorem silenceTrack_sameLanes (s : State) (samples : List Half) : sameLanes (silenceTrack s samples) s.track := by
  simp [sameLanes, silenceTrack]

section
variable {s t : State} {ts : Word} {samples : List Half}

theorem ticks_trackStage (h : ticks s ts samples t) :
    t.track = (trackStage cfg t.front (tickNovelty s samples) s.track).1 := by
  obtain ⟨-, -, -, -, -, hfront, htrack, -⟩ := ticks_fields h
  rw [htrack, tickValues_track, ← hfront, tickNovelty, waveform]

/-- The tracker after a tick is what the confidence step leaves of the PLL's (R270). -/
theorem ticks_track (h : ticks s ts samples t) :
    t.track = confStep cfg (tickRan s t samples) (tickPll s t samples).1 := by
  rw [ticks_trackStage h, trackStage_eq, tickPll, tickRan, pllInput, silenceTrack]

/-- What a heavy update writes is read off `heavyUpdate`; a tick without one keeps it (R272). -/
theorem ticks_sameHeavy (h : ticks s ts samples t) :
    (heavyRan s t → sameHeavy t.track (heavyUpdate cfg t.front (silenceTrack s samples)))
      ∧ (¬ heavyRan s t → sameHeavy t.track s.track) := by
  rw [← tickRan_iff s t samples, tickRan, silenceTrack, heavyGate_silenceStep, ticks_trackStage h]
  refine ⟨fun hran => ?_, fun hran => ?_⟩
  · simp only [sameHeavy, sameLanes, trackStage_tmix, trackStage_tmh, trackStage_havePeak, trackStage_sel,
      trackStage_ptarget, trackStage_phitarget, trackStage_selscore, trackStage_prevphi, trackStage_prevphiV,
      if_pos hran, and_self]
  · simp only [sameHeavy, sameLanes, trackStage_tmix, trackStage_tmh, trackStage_havePeak, trackStage_sel,
      trackStage_ptarget, trackStage_phitarget, trackStage_selscore, trackStage_prevphi, trackStage_prevphiV,
      if_neg hran, and_self]

/-- Every tick ends with the scheduler counter at 0: it counts modulo `HEAVY_N`, which is 1 (R272). -/
theorem ticks_heavyCtr (h : ticks s ts samples t) : t.track.heavyCtr = 0 := by
  have hlt := heavyStep_heavyCtr_lt t.front (tickNovelty s samples) (silenceTrack s samples)
  have hn : cfg.heavyN = 1 := rfl
  rw [ticks_track h, confStep_heavyCtr, tickPll, pllStep_heavyCtr, pllInput, holdStep_heavyCtr]
  exact BitVec.eq_of_toNat_eq (Nat.lt_one_iff.1 (hn ▸ hlt))

/-- The PLL reads the target that the tick leaves (R270). -/
theorem ticks_pllInput (h : ticks s ts samples t) :
    (pllInput s t samples).havePeak = t.track.havePeak ∧ (pllInput s t samples).ptarget = t.track.ptarget
      ∧ (pllInput s t samples).phitarget = t.track.phitarget
      ∧ (pllInput s t samples).selscore = t.track.selscore := by
  rw [ticks_track h, tickPll]
  simp only [confStep_havePeak, confStep_ptarget, confStep_phitarget, confStep_selscore, pllStep_havePeak,
    pllStep_ptarget, pllStep_phitarget, pllStep_selscore, and_self]

/-- A heavy update with a peak, as the PLL computes it (R290, R291). -/
theorem tickRan_and_havePeak_iff (h : ticks s ts samples t) :
    (tickRan s t samples && (pllInput s t samples).havePeak) = true ↔ heavyRan s t ∧ t.track.havePeak = true := by
  rw [Bool.and_eq_true, tickRan_iff, (ticks_pllInput h).1]

/-- The tempo outputs of a tick are computed from the state it leaves (R295 to R297). -/
theorem ticks_out (h : ticks s ts samples t) : (tickValues cfg s samples).out
    = tempoOut cfg t.front (tickNovelty s samples) (tickPll s t samples).2 t.track := by
  have hout : (tickValues cfg s samples).out = (trackStage cfg t.front (tickNovelty s samples) s.track).2 := by
    simp only [tickValues, ticks_front h, tickNovelty, waveform]
  rw [hout, ticks_trackStage h]
  simp only [trackStage, tickPll, pllInput, tickRan, laneSwitched, silenceTrack]

end

end Sys2Proof.Machine
end

section
/-! PROOFS. Peaks of a tempogram (R274, R275), the scheduler (R272, R288), the tempograms of a heavy update (R273), and
the base lag and period (R276, R277). -/

namespace Sys2Proof.Machine

/-! ### The first of the largest -/

/-- `a` is the entry of the list at which `f` is largest, the smallest such one. -/
def firstBest (f : Nat → Int) (l : List Nat) (a : Nat) : Prop :=
  a ∈ l ∧ ∀ b ∈ l, f b < f a ∨ (f b = f a ∧ a ≤ b)

theorem firstBest_unique {f : Nat → Int} {l : List Nat} {a b : Nat} (ha : firstBest f l a) (hb : firstBest f l b) :
    a = b := by
  have hab := ha.2 b hb.1
  have hba := hb.2 a ha.1
  omega

/-- In an increasing list, an entry replaces the best so far only where it is larger, so the smallest one stays on
ties. -/
theorem firstBest_foldl (f : Nat → Int) (a : Nat) (rest : List Nat) (hsorted : (a :: rest).Pairwise (· < ·)) :
    firstBest f (a :: rest) (rest.foldl (fun best b => if f b > f best then b else best) a) := by
  induction rest generalizing a with
  | nil => simp [firstBest]
  | cons b rest ih =>
    obtain ⟨hab, hb⟩ := List.pairwise_cons.1 hsorted
    obtain ⟨-, hrest⟩ := List.pairwise_cons.1 hb
    have hlt : a < b := hab b List.mem_cons_self
    rw [List.foldl_cons]
    split_ifs with hbetter
    · obtain ⟨hmem, hbest⟩ := ih b hb
      have hb' := hbest b List.mem_cons_self
      refine ⟨List.mem_cons_of_mem _ hmem, List.forall_mem_cons.2 ⟨.inl ?_, hbest⟩⟩
      omega
    · obtain ⟨hmem, hbest⟩ := ih a
        (List.pairwise_cons.2 ⟨fun c hc => hab c (List.mem_cons_of_mem _ hc), hrest⟩)
      obtain ⟨ha', hbest'⟩ := List.forall_mem_cons.1 hbest
      refine ⟨List.cons_subset_cons a (List.subset_cons_self b rest) hmem,
        List.forall_mem_cons.2 ⟨ha', List.forall_mem_cons.2 ⟨?_, hbest'⟩⟩⟩
      omega

theorem argmaxFirst_eq_none_iff {f : Nat → Int} {l : List Nat} : argmaxFirst f l = none ↔ l = [] := by
  cases l <;> simp [argmaxFirst]

theorem argmaxFirst_eq_some_iff {f : Nat → Int} {l : List Nat} (hsorted : l.Pairwise (· < ·)) {a : Nat} :
    argmaxFirst f l = some a ↔ firstBest f l a := by
  have hspec : ∀ {b : Nat}, argmaxFirst f l = some b → firstBest f l b := by
    intro b hb
    cases l with
    | nil => cases hb
    | cons c rest => exact Option.some.inj hb ▸ firstBest_foldl f c rest hsorted
  refine ⟨hspec, fun ha => ?_⟩
  obtain ⟨b, hb⟩ := argmaxFirst_isSome (f := f) ha.1
  rw [hb, firstBest_unique (hspec hb) ha]

/-- The largest of an initial value and the values on a list. -/
theorem foldl_max_spec (f : Nat → Int) (l : List Nat) (m : Int) :
    m ≤ l.foldl (fun m x => max m (f x)) m ∧ (∀ x ∈ l, f x ≤ l.foldl (fun m x => max m (f x)) m)
      ∧ (l.foldl (fun m x => max m (f x)) m = m ∨ ∃ x ∈ l, f x = l.foldl (fun m x => max m (f x)) m) := by
  induction l generalizing m with
  | nil => simp
  | cons y l ih =>
    obtain ⟨hle, hall, hattained⟩ := ih (max m (f y))
    rw [List.foldl_cons]
    refine ⟨by omega, List.forall_mem_cons.2 ⟨by omega, hall⟩, ?_⟩
    obtain heq | ⟨x, hx, heq⟩ := hattained
    · obtain hm | hy := max_choice m (f y)
      · exact .inl (heq.trans hm)
      · exact .inr ⟨y, List.mem_cons_self, by rw [heq, hy]⟩
    · exact .inr ⟨x, List.mem_cons_of_mem y hx, heq⟩

/-! ### Peaks -/

/-- The entry of a stored tempogram for a lag (R52). -/
def lagValue (t : List Word) (l : Nat) : Nat := natAt t (l - 42)

theorem tgAt_uvals (t : List Word) (l : Nat) : tgAt cfg (uvals t) l = lagValue t l := by
  rw [tgAt, at0_uvals, lMin_cfg, lagValue]

theorem lags_sorted : (lags cfg).Pairwise (· < ·) := by decide +kernel

theorem peaks_sorted (t : List Int) : (peaks cfg t).Pairwise (· < ·) := lags_sorted.filter _

theorem mem_peaks_iff (t : List Word) (l : Nat) : l ∈ peaks cfg (uvals t) ↔ peakOf (lagValue t) l := by
  simp only [peaks, List.mem_filter, mem_lags, isPeak, tgAt_uvals, lMin_cfg, lMax_cfg, Bool.and_eq_true,
    Bool.or_eq_true, beq_iff_eq, decide_eq_true_eq, gt_iff_lt, ge_iff_le, Int.ofNat_le, Int.natCast_pos, peakOf,
    and_assoc]

theorem peaks_eq_nil_iff (t : List Word) : peaks cfg (uvals t) = [] ↔ ∀ l, ¬ peakOf (lagValue t) l := by
  simp only [List.eq_nil_iff_forall_not_mem, mem_peaks_iff]

/-- A lag is the strongest peak of a stored tempogram, the smallest on ties (R275). -/
def strongestPeak (t : List Word) (l : Nat) : Prop :=
  peakOf (lagValue t) l
    ∧ ∀ k, peakOf (lagValue t) k → lagValue t k < lagValue t l ∨ (lagValue t k = lagValue t l ∧ l ≤ k)

theorem argmaxFirst_peaks_iff (t : List Word) (l : Nat) :
    argmaxFirst (tgAt cfg (uvals t)) (peaks cfg (uvals t)) = some l ↔ strongestPeak t l := by
  rw [argmaxFirst_eq_some_iff (peaks_sorted _)]
  simp only [firstBest, mem_peaks_iff, tgAt_uvals, Int.ofNat_lt, Int.ofNat_inj, strongestPeak]

/-- The value of the second peak is the largest at a peak other than the first, 0 where there is none (R275). -/
theorem secondPeak_spec (t : List Word) (l1 : Nat) : ∃ v2 : Nat, secondPeak cfg (uvals t) l1 = v2
    ∧ (∀ l, peakOf (lagValue t) l → l ≠ l1 → lagValue t l ≤ v2)
    ∧ ((∃ l, peakOf (lagValue t) l ∧ l ≠ l1) → ∃ l, peakOf (lagValue t) l ∧ l ≠ l1 ∧ lagValue t l = v2)
    ∧ ((¬ ∃ l, peakOf (lagValue t) l ∧ l ≠ l1) → v2 = 0) := by
  obtain ⟨hpos, hall, hattained⟩ := foldl_max_spec (tgAt cfg (uvals t)) ((peaks cfg (uvals t)).filter (· ≠ l1)) 0
  change 0 ≤ secondPeak cfg (uvals t) l1 at hpos
  change ∀ l ∈ _, tgAt cfg (uvals t) l ≤ secondPeak cfg (uvals t) l1 at hall
  change secondPeak cfg (uvals t) l1 = 0 ∨ ∃ l ∈ _, tgAt cfg (uvals t) l = secondPeak cfg (uvals t) l1
    at hattained
  obtain ⟨v2, hv2⟩ := Int.eq_ofNat_of_zero_le hpos
  simp only [List.mem_filter, mem_peaks_iff, decide_eq_true_eq, tgAt_uvals, hv2, Int.ofNat_le, Int.ofNat_inj, and_imp,
    and_assoc, Int.natCast_eq_zero] at hall hattained
  refine ⟨v2, hv2, hall, fun ⟨l, hl, hne⟩ => ?_, fun hnone => ?_⟩
  · obtain hzero | hex := hattained
    · have := hall l hl hne
      have := hl.2.2.1
      omega
    · exact hex
  · exact hattained.resolve_right fun ⟨l, hl, hne, _⟩ => hnone ⟨l, hl, hne⟩

/-! ### The heavy update by whether there is a peak -/

theorem heavyUpdate_of_peak {f : Front} {tr : Track} {l1 : Nat}
    (hpeak : strongestPeak (updateTempograms cfg f tr).tmix l1) :
    heavyUpdate cfg f tr
      = selectLane cfg (heavyLanes cfg f (updateTempograms cfg f tr) l1) (updateTempograms cfg f tr) := by
  simp only [heavyUpdate, (argmaxFirst_peaks_iff _ _).2 hpeak]

theorem heavyUpdate_havePeak_iff (f : Front) (tr : Track) : (heavyUpdate cfg f tr).havePeak = true
    ↔ ∃ l, peakOf (lagValue (updateTempograms cfg f tr).tmix) l := by
  rw [heavyUpdate_havePeak, Bool.not_eq_true', List.isEmpty_eq_false_iff, ne_eq, peaks_eq_nil_iff, not_forall_not]

/-- Without a peak a heavy update keeps the lane state (R288). -/
theorem heavyUpdate_no_peak {f : Front} {tr : Track} (hnone : (heavyUpdate cfg f tr).havePeak = false) :
    sameLanes (heavyUpdate cfg f tr) tr := by
  obtain heq | ⟨l1, -, heq⟩ := heavyUpdate_cases f tr
  · rw [heq]
    exact ⟨rfl, rfl, rfl, rfl, rfl, rfl⟩
  · rw [heq, selectLane_havePeak] at hnone
    cases hnone

section
variable {s t : State} {ts : Word} {samples : List Half}

/-- The tempograms that a heavy update leaves (R273). -/
theorem ticks_tempograms (h : ticks s ts samples t) (hran : heavyRan s t) :
    t.track.tmix = (updateTempograms cfg t.front (silenceTrack s samples)).tmix
      ∧ t.track.tmh = (updateTempograms cfg t.front (silenceTrack s samples)).tmh := by
  obtain ⟨hmix, hmh, -⟩ := (ticks_sameHeavy h).1 hran
  exact ⟨hmix.trans (heavyUpdate_tmix _ _ _), hmh.trans (heavyUpdate_tmh _ _ _)⟩

theorem ticks_frontShaped (h : ticks s ts samples t) (hshape : frontShaped s.front) : frontShaped t.front := by
  have hlen : (waveform samples).length = cfg.n := removeDC_length cfg samples
  rw [ticks_front h]
  exact frontStage_shaped hshape hlen

theorem ticks_havePeak_iff (h : ticks s ts samples t) (hran : heavyRan s t) :
    t.track.havePeak = true ↔ ∃ l, peakOf (lagValue t.track.tmix) l := by
  obtain ⟨-, -, hpeak, -⟩ := (ticks_sameHeavy h).1 hran
  rw [hpeak, heavyUpdate_havePeak_iff, (ticks_tempograms h hran).1]

end

/-- Settles O33: the heavy update is all that writes the tempograms, the peak flag and the lane state, and it keeps the
lane state where the list of peaks is empty (R272, R274, R288). -/
theorem heavyScheduler : Obligations.HeavyScheduler := by
  intro s ts samples t h lanesKept
  obtain ⟨hheavy, hlight⟩ := ticks_sameHeavy h
  refine ⟨ticks_heavyCtr h, hlight, ticks_havePeak_iff h, fun hran hnone => ?_⟩
  obtain ⟨-, -, hpeak, hlanes⟩ := hheavy hran
  exact (hlanes.trans (heavyUpdate_no_peak (hpeak ▸ hnone))).trans (silenceTrack_sameLanes s samples)

/-! ### Tempograms -/

theorem sumTo_natCast (n : Nat) (g : Nat → Nat) : sumTo n (fun i => g i) = (((List.range n).map g).sum : Nat) := by
  rw [sumTo, Nat.cast_list_sum, List.map_map]
  rfl

theorem uvals_length (l : List Word) : (uvals l).length = l.length := List.length_map _

/-- The zero-lag energy of a stored ring (R273). -/
theorem zeroLag_uvals {h : List Word} {n : Nat} (hlen : h.length = n) :
    zeroLag (uvals h) = (((List.range n).map fun i => natAt h i * natAt h i).sum : Nat) := by
  have hn := (uvals_length h).trans hlen
  rw [← sumTo_natCast, zeroLag, ← sumTo_at0 (fun v => v * v), hn]
  exact sumTo_congr fun i _ => by rw [at0_uvals, Int.natCast_mul]

/-- The lagged product sum of a stored ring (R273). -/
theorem laggedSum_uvals {h : List Word} {n : Nat} (hlen : h.length = n) (l : Nat) :
    (List.zipWith (· * ·) ((uvals h).drop l) (uvals h)).sum
      = (((List.range (n - l)).map fun i => natAt h (l + i) * natAt h i).sum : Nat) := by
  have hn := (uvals_length h).trans hlen
  rw [← sumTo_natCast, sumTo]
  refine congrArg List.sum (List.ext_getElem (by simp [hn]) fun i hi hi' => ?_)
  simp only [List.length_map, List.length_range] at hi'
  rw [List.getElem_zipWith, List.getElem_drop, List.getElem_map, List.getElem_range, Int.natCast_mul, ← at0_uvals,
    ← at0_uvals, at0_of_lt, at0_of_lt]

/-- A quotient of a part by its whole on values that are not negative, Q16.16. -/
theorem share_natCast (part whole : Nat) : (if (whole : Int) = 0 then 0 else fdiv (part * 65536) whole)
    = (if whole = 0 then 0 else part * 65536 / whole : Nat) := by
  simp only [Int.natCast_eq_zero]
  split_ifs
  · rfl
  · rw [fdiv]
    push_cast
    rfl

/-- The normalized autocorrelation of a stored ring (R273). -/
def autocorrNat (h : List Word) (l : Nat) : Nat :=
  let e0 := ((List.range 512).map fun n => natAt h n * natAt h n).sum
  if e0 = 0 then 0 else ((List.range (512 - l)).map fun i => natAt h (l + i) * natAt h i).sum * 65536 / e0

theorem autocorr_uvals {h : List Word} (hlen : h.length = 512) (l : Nat) :
    autocorr (uvals h) l = autocorrNat h l := by
  rw [autocorr, zeroLag_uvals hlen, laggedSum_uvals hlen]
  exact share_natCast _ _

/-- An entry of an updated tempogram, whatever was stored: a step from a word towards a value of at most 65536 stays a
word (R273). -/
theorem lagValue_tempogram {h : List Word} (hlen : h.length = 512) (t : List Word) {l : Nat} (h1 : 42 ≤ l)
    (h2 : l ≤ 93) :
    lagValue ((tempogram cfg (uvals h) (uvals t)).map u32) l = emaNat (lagValue t l) (autocorrNat h l) 6554 := by
  have hcoef : cfg.alphaTg = (6554 : Nat) := rfl
  have hac := (autocorr_within (uvals_nonneg h) l).2
  rw [autocorr_uvals hlen] at hac
  have hword : emaNat (lagValue t l) (autocorrNat h l) 6554 ≤ 4294967295 :=
    emaNat_le (by norm_num) (Nat.le_of_lt_succ (t.getD (l - 42) 0).isLt) (by omega)
  have hstep : ∀ k, ema (tgAt cfg (uvals t) k) (autocorr (uvals h) k) cfg.alphaTg
      = emaNat (lagValue t k) (autocorrNat h k) 6554 := fun k => by
    rw [tgAt_uvals, autocorr_uvals hlen, hcoef, ema_natCast _ _ (by norm_num)]
  rw [lagValue, tempogram, lags, lMin_cfg, lMax_cfg, List.map_map, List.map_map]
  refine natAt_map_range (by omega) (by omega) ((hstep _).trans ?_)
  simp only [Nat.sub_add_cancel h1]

theorem updateTempograms_tmix (c : Cfg) (f : Front) (tr : Track) :
    (updateTempograms c f tr).tmix = (tempogram c (uvals f.hmix) (uvals tr.tmix)).map u32 := rfl

theorem updateTempograms_tmh (c : Cfg) (f : Front) (tr : Track) :
    (updateTempograms c f tr).tmh = (tempogram c (uvals f.hmh) (uvals tr.tmh)).map u32 := rfl

/-- Settles O34: the two tempograms entry by entry, over rings that are full (R273). -/
theorem tempogramUpdate : Obligations.TempogramUpdate := by
  intro s ts samples t h hshape hran l h1 h2 ac
  obtain ⟨hmix, hmh⟩ := ticks_tempograms h hran
  rw [updateTempograms_tmix, silenceTrack_tmix] at hmix
  rw [updateTempograms_tmh, silenceTrack_tmh] at hmh
  obtain ⟨-, -, -, -, -, -, hmhLen, -⟩ := ticks_frontShaped h hshape
  have hfull := hran.1
  rw [hmix, hmh]
  exact ⟨lagValue_tempogram hfull _ h1 h2, lagValue_tempogram (hmhLen.trans hfull) _ h1 h2⟩

/-! ### The base lag and period -/

/-- The base lag where the mid/high tempogram has a peak (R276). -/
theorem baseLag_of_peak (tmix : List Word) {tmh : List Word} {lh : Nat} (hpeak : strongestPeak tmh lh) (l1 : Nat) :
    baseLag cfg (uvals tmix) (uvals tmh) l1
      = if lagValue tmix l1 * 58982 / 65536 ≤ lagValue tmh lh then (lh, uvals tmh) else (l1, uvals tmix) := by
  have hnear : cfg.near = (58982 : Nat) := rfl
  have hshare : fdiv (lagValue tmix l1 * cfg.near) 65536 = (lagValue tmix l1 * 58982 / 65536 : Nat) := by
    rw [hnear, fdiv]
    push_cast
    rfl
  simp only [baseLag, (argmaxFirst_peaks_iff _ _).2 hpeak, tgAt_uvals, hshare, ge_iff_le, Int.ofNat_le]

/-- The base lag where it has none (R276). -/
theorem baseLag_of_no_peak (tmix : List Word) {tmh : List Word} (hnone : ∀ l, ¬ peakOf (lagValue tmh) l) (l1 : Nat) :
    baseLag cfg (uvals tmix) (uvals tmh) l1 = (l1, uvals tmix) := by
  simp only [baseLag, argmaxFirst_eq_none_iff.2 ((peaks_eq_nil_iff tmh).2 hnone)]

/-- The base period with the three points of the parabola written out (R277). -/
theorem basePeriod_eq (lb : Nat) (tb : List Int) :
    let a := tb.getD (lb - 1 - 42) 0
    let b := tb.getD (lb - 42) 0
    let c := tb.getD (lb + 1 - 42) 0
    let den := a - 2 * b + c
    basePeriod cfg lb tb = lb * 65536 + if lb = 42 ∨ lb = 93 then 0 else if 0 ≤ den then 0
      else max (-32768) (min 32768 (((a - c) * 32768).tdiv den)) := by
  rw [basePeriod, lMin_cfg, lMax_cfg]
  rfl

end Sys2Proof.Machine

namespace Sys2Proof

/-- Settles O35: the strongest mid/high peak is what the search finds, the parabola as its definition has it, and its
vertex is within half a tick (R276, R277). -/
theorem basePeriod : Obligations.BasePeriod := by
  constructor
  · intro tmix tmh l1 v
    exact ⟨fun lh hpeak hbest => Machine.baseLag_of_peak tmix ⟨hpeak, hbest⟩ l1,
      fun hnone => Machine.baseLag_of_no_peak tmix hnone l1⟩
  intro lb tb h1 h2 a b c den
  refine ⟨fun hflat => ?_, fun hlo hhi hden => ?_, Machine.basePeriod_within ⟨h1, h2⟩ tb⟩
  · rw [Machine.basePeriod_eq, ← ite_or, if_pos (or_assoc.2 hflat), add_zero]
  · rw [Machine.basePeriod_eq, if_neg (not_or.2 ⟨hlo, hhi⟩), if_neg (not_le.2 hden)]

end Sys2Proof
end

section
/-! PROOFS. The comb over a full ring (R280), the four lanes (R278 to R282), arbitration (R283, R284), and what a heavy
update with a peak stores (R275, R282, R285). -/

namespace Sys2Proof.Machine

/-! ### The comb -/

/-- The grid points rise with the period, so past the first one outside the ring there are no others, and the sum up to
it is the sum over all points inside (R280). -/
theorem gridSum_eq_sumTo (hb : List Int) {p : Int} (hp : 0 ≤ p) (phi fuel m : Nat) :
    gridSum cfg hb p phi fuel m = sumTo fuel fun k =>
      let pos := phi + asr ((m + k : Nat) * p + 32768) 16
      if pos ≤ 511 then at0 hb pos.toNat else 0 := by
  have htop : (cfg.h : Int) - 1 = 511 := rfl
  induction fuel generalizing m with
  | zero => rfl
  | succ fuel ih =>
    have hcons : ∀ g : Nat → Int, sumTo (fuel + 1) g = g 0 + sumTo fuel fun k => g (k + 1) := fun g => by
      rw [sumTo, List.range_succ_eq_map, List.map_cons, List.sum_cons, List.map_map]
      rfl
    simp only [gridSum, htop, hcons, Nat.add_zero]
    split_ifs with hin
    · rw [ih]
      simp only [Nat.add_assoc, Nat.add_comm 1]
    · have hrise : ∀ k : Nat, asr (m * p + 32768) 16 ≤ asr ((m + (k + 1) : Nat) * p + 32768) 16 := fun k => by
        have hmul : (m : Int) * p ≤ (m + (k + 1) : Nat) * p := mul_le_mul_of_nonneg_right (by omega) hp
        unfold asr
        omega
      have hout : ∀ k : Nat, ¬ (phi + asr ((m + (k + 1) : Nat) * p + 32768) 16 ≤ 511) := fun k => by
        have := hrise k
        omega
      simp only [hout, if_false, sumTo, List.sum_map_zero, add_zero]

/-- The energy of a stored ring on the grid of an offset and a period (R280). -/
def gridEnergy (h : List Word) (p phi : Nat) : Nat :=
  ((List.range 512).map fun m =>
    let pos := phi + (m * p + 32768) / 65536
    if pos ≤ 511 then natAt h (511 - pos) else 0).sum

theorem at0_reverse_uvals {h : List Word} (hlen : h.length = 512) {i : Nat} (hi : i ≤ 511) :
    at0 (uvals h).reverse i = natAt h (511 - i) := by
  have hn := (uvals_length h).trans hlen
  rw [← at0_uvals, at0, at0, List.getD_eq_getElem?_getD, List.getD_eq_getElem?_getD,
    List.getElem?_reverse (by omega), hn]

theorem combEnergy_uvals {h : List Word} (hlen : h.length = 512) (p phi : Nat) :
    combEnergy cfg (uvals h).reverse p phi = gridEnergy h p phi := by
  rw [combEnergy, show cfg.h = 512 from rfl, gridSum_eq_sumTo _ (Int.natCast_nonneg p), gridEnergy, ← sumTo_natCast]
  refine sumTo_congr fun m _ => ?_
  have hpos : (phi : Int) + asr ((0 + m : Nat) * (p : Int) + 32768) 16 = (phi + (m * p + 32768) / 65536 : Nat) := by
    rw [Nat.zero_add, asr]
    push_cast
    rfl
  simp only [hpos, Int.toNat_natCast]
  split_ifs with hin hin' hin'
  · exact at0_reverse_uvals hlen hin'
  · omega
  · omega
  · rfl

/-- The sum of a stored ring (R280). -/
theorem sum_uvals {h : List Word} {n : Nat} (hlen : h.length = n) :
    (uvals h).sum = (((List.range n).map (natAt h)).sum : Nat) := by
  have hn := (uvals_length h).trans hlen
  rw [← sumTo_natCast, ← List.map_id (uvals h), ← sumTo_at0, hn]
  exact sumTo_congr fun i _ => at0_uvals h i

/-- The offset of a comb is the first of the best below the lag, and its alignment is that offset's share (R280). -/
theorem comb_spec (h : List Int) (p : Int) {lc : Nat} (hlc : 0 < lc) :
    firstBest (combEnergy cfg h.reverse p) (List.range lc) (comb cfg h p lc).1
      ∧ (comb cfg h p lc).2
        = if h.sum = 0 then 0 else fdiv (combEnergy cfg h.reverse p (comb cfg h p lc).1 * 65536) h.sum := by
  obtain ⟨a, ha⟩ := argmaxFirst_isSome (f := combEnergy cfg h.reverse p) (List.mem_range.2 hlc)
  have hcomb : (comb cfg h p lc).1 = a := by
    simp only [comb, ha, Option.getD_some]
  refine ⟨?_, rfl⟩
  rw [hcomb]
  exact (argmaxFirst_eq_some_iff List.pairwise_lt_range).1 ha

/-- Settles O37: the energies as sums over the ring, the first of the best among them, and its share, which the points
of one grid being apart keeps at most 1 (R280). -/
theorem combAlignment : Obligations.CombAlignment := by
  intro h p lag hlen hp hlag energy total r
  obtain ⟨⟨hmem, hbest⟩, hshare⟩ := comb_spec (uvals h) p hlag
  simp only [combEnergy_uvals hlen, List.mem_range, Int.ofNat_lt, Int.ofNat_inj] at hmem hbest
  refine ⟨hmem, fun phi hphi => ?_, fun phi hphi => ?_, ?_,
    (comb_align_within (uvals_nonneg h) (by omega) lag).2⟩
  · obtain hlt | ⟨heq, -⟩ := hbest phi hphi
    · exact hlt.le
    · exact heq.le
  · obtain hlt | ⟨-, hle⟩ := hbest phi (hphi.trans hmem)
    · exact hlt
    · exact absurd hphi hle.not_gt
  · rw [hshare, sum_uvals hlen, combEnergy_uvals hlen]
    exact share_natCast _ _

/-! ### The lanes -/

/-- The periods of the four lanes (R278). -/
theorem lanePeriod_eq (base : Int) {i : Nat} (hi : i < 4) :
    lanePeriod base i = [2 * base, base, 2 * base / 3, base / 2].getD i 0 := by
  obtain rfl | rfl | rfl | rfl : i = 0 ∨ i = 1 ∨ i = 2 ∨ i = 3 := by omega
  · simp [lanePeriod, laneRate, fdiv, mul_comm]
  · simp [lanePeriod, laneRate, fdiv]
  · simp [lanePeriod, laneRate, fdiv, mul_comm]
  · simp [lanePeriod, laneRate, fdiv]

/-- The lag of a period in the lag range (R278). -/
theorem rlag_toNat {p : Int} (hp : 42 * 65536 ≤ p ∧ p ≤ 93 * 65536) :
    ((rlag p).toNat : Int) = (p + 32768) / 65536 ∧ 42 ≤ (rlag p).toNat ∧ (rlag p).toNat ≤ 93 := by
  unfold rlag asr
  omega

theorem movedForward_iff (phi : Nat) (prev : Int) (lc : Nat) : movedForward phi prev lc = true
    ↔ 1 ≤ ((phi : Int) - prev) % lc ∧ ((phi : Int) - prev) % lc ≤ (lc : Int) / 2 := by
  rw [movedForward, Bool.and_eq_true, decide_eq_true_eq, decide_eq_true_eq]
  rfl

section
variable (hmix hmh tmix : List Int) (v2 base : Int) (tr : Track) (i : Nat)

theorem evalLane_period : (evalLane cfg hmix hmh tmix v2 base tr i).period = lanePeriod base i := by
  unfold evalLane
  dsimp only
  split_ifs <;> rfl

theorem evalLane_valid : (evalLane cfg hmix hmh tmix v2 base tr i).valid = laneValid cfg (lanePeriod base i) := by
  unfold evalLane
  dsimp only
  split_ifs with hv <;> simp [hv]

/-- What is computed of a valid lane (R279 to R282). -/
theorem evalLane_of_valid (hv : (evalLane cfg hmix hmh tmix v2 base tr i).valid = true) :
    let e := evalLane cfg hmix hmh tmix v2 base tr i
    e.lag = (rlag e.period).toNat ∧ e.phiMix = (comb cfg hmix e.period e.lag).1
      ∧ e.phiMh = (comb cfg hmh e.period e.lag).1
      ∧ e.score = laneScore cfg (prominence cfg tmix e.lag v2) (comb cfg hmix e.period e.lag).2
      ∧ e.fwd = (tr.prevphiV.getD i false && movedForward e.phiMh (uval (tr.prevphi.getD i 0)) e.lag) := by
  rw [evalLane_valid] at hv
  simp only [evalLane, hv, if_true, and_self]

/-- An invalid lane has no score and does not move (R278). -/
theorem evalLane_of_invalid (hv : (evalLane cfg hmix hmh tmix v2 base tr i).valid = false) :
    (evalLane cfg hmix hmh tmix v2 base tr i).score = 0 ∧ (evalLane cfg hmix hmh tmix v2 base tr i).fwd = false := by
  rw [evalLane_valid] at hv
  simp only [evalLane, hv, Bool.false_eq_true, if_false, and_self]

end

/-- Settles O36: a lane is valid where its period is in the lag range, and then its fields are computed at its lag
(R278 to R282). -/
theorem laneCandidates : Obligations.LaneCandidates := by
  intro hmix hmh tmix v2 base tr i hi hlo hhi e prom mixed moved
  have hvalid : e.valid = true ↔ 42 * 65536 ≤ e.period ∧ e.period ≤ 93 * 65536 := by
    rw [show e.valid = _ from evalLane_valid .., laneValid_iff, ← show e.period = _ from evalLane_period ..]
  refine ⟨?_, hvalid, fun h1 => ?_, fun hv => ?_, fun hv => ?_, fun hv => ?_, fun hv => ?_⟩
  · exact (evalLane_period ..).trans (lanePeriod_eq base hi)
  · have hbase : e.period = base := by
      rw [show e.period = _ from evalLane_period .., lanePeriod_eq base hi, h1]
      rfl
    rw [hvalid, hbase]
    exact ⟨hlo, hhi⟩
  · obtain ⟨hlag, -⟩ := evalLane_of_valid hmix hmh tmix v2 base tr i hv
    have := rlag_toNat (hvalid.1 hv)
    rwa [← show e.lag = _ from hlag] at this
  · obtain ⟨-, hphiMix, hphiMh, hscore, -⟩ := evalLane_of_valid hmix hmh tmix v2 base tr i hv
    refine ⟨?_, hphiMix, hphiMh⟩
    rw [show e.score = _ from hscore, prominence, tgAt, lMin_cfg]
    rfl
  · obtain ⟨-, -, -, -, hfwd⟩ := evalLane_of_valid hmix hmh tmix v2 base tr i hv
    rw [show e.fwd = _ from hfwd, Bool.and_eq_true, movedForward_iff]
    rfl
  · exact evalLane_of_invalid hmix hmh tmix v2 base tr i hv

/-! ### Arbitration -/

/-- The first of the best among those of the four lanes that pass a test, or the incumbent where none does (R283,
R284). -/
def bestOfFour (score : Nat → Int) (inc : Nat) (q : Nat → Bool) : Nat :=
  (argmaxFirst score ((List.range 4).filter q)).getD inc

theorem bestOfFour_of_exists {score : Nat → Int} {inc : Nat} {q : Nat → Bool} {ok : Nat → Prop}
    (hok : ∀ j, q j = true ↔ ok j) (hex : ∃ j, j < 4 ∧ ok j) :
    bestOfFour score inc q < 4 ∧ ok (bestOfFour score inc q)
      ∧ ∀ j, j < 4 → ok j → score j < score (bestOfFour score inc q)
          ∨ (score j = score (bestOfFour score inc q) ∧ bestOfFour score inc q ≤ j) := by
  have hmem : ∀ j, j ∈ (List.range 4).filter q ↔ j < 4 ∧ ok j := fun j => by
    rw [List.mem_filter, List.mem_range, hok]
  obtain ⟨j, hj⟩ := hex
  obtain ⟨r, hr⟩ := argmaxFirst_isSome (f := score) ((hmem j).2 hj)
  obtain ⟨hin, hbest⟩ := (argmaxFirst_eq_some_iff (List.pairwise_lt_range.filter q)).1 hr
  obtain ⟨hlt, hq⟩ := (hmem r).1 hin
  rw [show bestOfFour score inc q = r by rw [bestOfFour, hr, Option.getD_some]]
  exact ⟨hlt, hq, fun k hk hqk => hbest k ((hmem k).2 ⟨hk, hqk⟩)⟩

theorem bestOfFour_of_none {score : Nat → Int} {inc : Nat} {q : Nat → Bool} {ok : Nat → Prop}
    (hok : ∀ j, q j = true ↔ ok j) (hnone : ¬ ∃ j, j < 4 ∧ ok j) : bestOfFour score inc q = inc := by
  have hnil : (List.range 4).filter q = [] := List.eq_nil_iff_forall_not_mem.2 fun j hj => by
    obtain ⟨hlt, hq⟩ := List.mem_filter.1 hj
    exact hnone ⟨j, List.mem_range.1 hlt, (hok j).1 hq⟩
  rw [bestOfFour, hnil, argmaxFirst, Option.getD_none]

/-- The challengers of a valid incumbent (R284). -/
def challenges (inc : Nat) (eff : Int) (lanes : List Lane) (j : Nat) : Bool :=
  (laneAt lanes j).valid && j ≠ inc && qualifies cfg eff (laneAt lanes inc).period (laneAt lanes j)

theorem challenges_iff (inc : Nat) (eff : Int) (lanes : List Lane) (j : Nat) : challenges inc eff lanes j = true
    ↔ (laneAt lanes j).valid = true ∧ j ≠ inc
      ∧ (if (laneAt lanes inc).period ≤ (laneAt lanes j).period then eff + 9830 < (laneAt lanes j).score
          else eff + 3277 < (laneAt lanes j).score ∧ (laneAt lanes j).fwd = true) := by
  have hslow : cfg.mSlow = 9830 := rfl
  have hfast : cfg.mFast = 3277 := rfl
  rw [challenges, Bool.and_eq_true, Bool.and_eq_true, decide_eq_true_eq, and_assoc, qualifies, hslow, hfast]
  split_ifs
  · rw [decide_eq_true_eq]
  · rw [Bool.and_eq_true, decide_eq_true_eq]

section
variable {lanes : List Lane} {inc : Nat} (hold : Int)

theorem arbitrate_of_invalid (hv : (laneAt lanes inc).valid = false) : arbitrate cfg inc hold lanes
    = bestOfFour (fun i => (laneAt lanes i).score) inc fun j => (laneAt lanes j).valid :=
  if_neg (hv ▸ Bool.false_ne_true)

theorem arbitrate_of_valid (hv : (laneAt lanes inc).valid = true) : arbitrate cfg inc hold lanes
    = bestOfFour (fun i => (laneAt lanes i).score) inc
        (challenges inc (incumbentScore cfg hold (laneAt lanes inc).score) lanes) :=
  if_pos hv

end

/-- Settles O38: the first of the best among the valid lanes, or among those that pass a valid incumbent (R283,
R284). -/
theorem arbitration : Obligations.Arbitration := by
  intro lanes inc hold _ hany r score best eff qual
  have heff : incumbentScore cfg hold (laneAt lanes inc).score = eff := by
    have hticks : cfg.holdTicks = (125 : Nat) := rfl
    have hbonus : cfg.holdBonus = 3277 := rfl
    simp only [incumbentScore, hticks, hbonus, gt_iff_lt, Int.ofNat_lt, eff, score]
  refine ⟨fun hinv => ?_, fun hv hex => ?_, fun hv hnone => ?_⟩
  · have hr : r = _ := arbitrate_of_invalid hold hinv
    simp only [best, hr]
    exact bestOfFour_of_exists (fun _ => Iff.rfl) hany
  · have hr : r = _ := arbitrate_of_valid hold hv
    simp only [best, hr, heff]
    exact bestOfFour_of_exists (challenges_iff inc eff lanes) hex
  · have hr : r = _ := arbitrate_of_valid hold hv
    rw [hr, heff]
    exact bestOfFour_of_none (challenges_iff inc eff lanes) hnone

/-! ### What a heavy update with a peak stores -/

theorem exists_strongestPeak {t : List Word} (hex : ∃ l, peakOf (lagValue t) l) : ∃ l, strongestPeak t l := by
  obtain ⟨l, hl⟩ := hex
  obtain ⟨l1, hl1⟩ := argmaxFirst_isSome (f := tgAt cfg (uvals t)) ((mem_peaks_iff t l).2 hl)
  exact ⟨l1, (argmaxFirst_peaks_iff t l1).1 hl1⟩

/-- A lane depends on the tracker by the grid offsets and their validity alone (R282). -/
theorem evalLane_congr_track {tr tr' : Track} (hphi : tr.prevphi = tr'.prevphi) (hphiV : tr.prevphiV = tr'.prevphiV)
    (hmix hmh tmix : List Int) (v2 base : Int) (i : Nat) :
    evalLane cfg hmix hmh tmix v2 base tr i = evalLane cfg hmix hmh tmix v2 base tr' i := by
  simp only [evalLane, hphi, hphiV]

/-- The lane of the base period is valid (R278). -/
theorem evalLane_same_valid (hmix hmh tmix : List Int) (v2 : Int) {base : Int}
    (hbase : 42 * 65536 ≤ base ∧ base ≤ 93 * 65536) (tr : Track) :
    (evalLane cfg hmix hmh tmix v2 base tr 1).valid = true := by
  rw [evalLane_valid, laneValid_iff, lanePeriod_eq base (by norm_num)]
  exact hbase

/-- The mid/high offset of a valid lane is below its lag, and so below 93 (R278, R280). -/
theorem evalLane_phiMh_lt {hmix hmh tmix : List Int} {v2 base : Int} {tr : Track} {i : Nat}
    (hv : (evalLane cfg hmix hmh tmix v2 base tr i).valid = true) :
    (evalLane cfg hmix hmh tmix v2 base tr i).phiMh < 93 := by
  obtain ⟨hlag, -, hphi, -⟩ := evalLane_of_valid hmix hmh tmix v2 base tr i hv
  obtain ⟨-, hlo, hhi⟩ := rlag_toNat (evalLane_target hv).1
  rw [← hlag] at hlo hhi
  rw [hphi]
  exact (comb_offset_lt hmh _ (by omega)).trans_le hhi

/-- What the selection among lanes stores, in fields that hold it (R282, R285). -/
theorem selectLane_stores {lanes : List Lane} {tr : Track} {r : Nat}
    (hr : arbitrate cfg tr.sel.toNat (uval tr.hold) lanes = r) (hlt : r < 4) (htarget : laneTarget (laneAt lanes r))
    (hphi : ∀ i, i < 4 → (laneAt lanes i).valid = true → (laneAt lanes i).phiMh < 93) :
    let u := selectLane cfg lanes tr
    u.sel.toNat = r ∧ (u.ptarget.toNat : Int) = (laneAt lanes r).period
      ∧ u.phitarget.toNat = (laneAt lanes r).phiMix ∧ u.selscore = BitVec.ofInt 32 (laneAt lanes r).score
      ∧ ∀ i, i < 4 → u.prevphiV.getD i false = (laneAt lanes i).valid
        ∧ ((laneAt lanes i).valid = true → (u.prevphi.getD i 0).toNat = (laneAt lanes i).phiMh)
        ∧ ((laneAt lanes i).valid = false → u.prevphi.getD i 0 = tr.prevphi.getD i 0) := by
  obtain ⟨hperiod, hoffset⟩ := htarget
  obtain ⟨-, -, hlag⟩ := rlag_toNat hperiod
  have hread : ∀ {n : Nat}, n < 93 → (u16 n).toNat = n := fun hn =>
    Int.ofNat_inj.1 (uval_u16 (Int.natCast_nonneg _) (by omega))
  have hget : ∀ {α : Type} (d : α) (f : Nat → α) {i : Nat}, i < 4 → ((List.range 4).map f).getD i d = f i := by
    intro α d f i hi
    rw [List.getD_eq_getElem _ _ (by simpa using hi), List.getElem_map, List.getElem_range]
  simp only [selectLane, hr]
  refine ⟨?_, uval_u32 (by omega) (by omega), hread (by omega), rfl,
    fun i hi => ⟨hget _ _ hi, fun hv => ?_, fun hv => ?_⟩⟩
  · rw [BitVec.toNat_ofNat]
    omega
  · rw [hget _ _ hi, if_pos hv]
    exact hread (hphi i hi hv)
  · rw [hget _ _ hi, hv]
    rfl

/-- The tracker whose tempograms the heavy update at the tick from `s` to `t` has updated (R273). -/
def heavyTrack (s t : State) (samples : List Half) : Track :=
  updateTempograms cfg t.front (silenceTrack s samples)

/-- The lane state after a heavy update with a peak is that of the selection at the strongest one (R275, R285). -/
theorem ticks_selectLane {s t : State} {ts : Word} {samples : List Half} (h : ticks s ts samples t)
    (hran : heavyRan s t) {l1 : Nat} (hl1 : strongestPeak t.track.tmix l1) :
    sameLanes t.track
      (selectLane cfg (heavyLanes cfg t.front (heavyTrack s t samples) l1) (heavyTrack s t samples)) := by
  obtain ⟨-, -, -, hlanes⟩ := (ticks_sameHeavy h).1 hran
  rw [(ticks_tempograms h hran).1] at hl1
  rwa [heavyUpdate_of_peak hl1] at hlanes

/-- The lanes of the heavy update, on the state that the tick leaves and the lane offsets before it (R275 to R282). -/
theorem ticks_heavyLanes {s t : State} {ts : Word} {samples : List Half} (h : ticks s ts samples t)
    (hran : heavyRan s t) (l1 : Nat) :
    heavyLanes cfg t.front (heavyTrack s t samples) l1 =
      let b := baseLag cfg (uvals t.track.tmix) (uvals t.track.tmh) l1
      (List.range 4).map fun i => evalLane cfg (uvals t.front.hmix) (uvals t.front.hmh) (uvals t.track.tmix)
        (secondPeak cfg (uvals t.track.tmix) l1) (basePeriod cfg b.1 b.2) s.track i := by
  obtain ⟨hmix, hmh⟩ := ticks_tempograms h hran
  obtain ⟨-, -, -, -, hphi, hphiV⟩ := silenceTrack_sameLanes s samples
  rw [← updateTempograms_prevphi cfg t.front] at hphi
  rw [← updateTempograms_prevphiV cfg t.front] at hphiV
  rw [heavyLanes, hmix, hmh, heavyTrack]
  exact List.map_congr_left fun i _ => evalLane_congr_track hphi hphiV _ _ _ _ _ i

/-- Settles O39: the strongest peak and the second are found on the new mix tempogram, lane 1 is always valid, and the
values selected fit their fields (R275, R282, R285). -/
theorem heavyUpdateSelects : Obligations.HeavyUpdateSelects := by
  intro s ts samples t h hran hpeak v
  obtain ⟨l1, hl1⟩ := exists_strongestPeak ((ticks_havePeak_iff h hran).1 hpeak)
  obtain ⟨v2, hv2, hle, hattained, hzero⟩ := secondPeak_spec t.track.tmix l1
  refine ⟨l1, v2, hl1.1, hl1.2, hle, hattained, hzero, ?_⟩
  intro b base lanes r
  have hbase : 42 * 65536 ≤ base ∧ base ≤ 93 * 65536 :=
    basePeriod_within (baseLag_within ((mem_peaks_iff _ _).2 hl1.1)) b.2
  have hlanes : heavyLanes cfg t.front (heavyTrack s t samples) l1 = lanes := by
    rw [ticks_heavyLanes h hran, hv2]
  have hlane : ∀ {i : Nat}, i < 4 → laneAt lanes i = _ := fun hi => laneAt_map_range hi
  obtain ⟨hlt, hvalid⟩ : r < 4 ∧ (laneAt lanes r).valid = true :=
    arbitrate_valid _ s.track.sel.isLt (by norm_num : 1 < 4) (by
      rw [hlane (by norm_num)]
      exact evalLane_same_valid _ _ _ _ hbase _)
  have htarget : laneTarget (laneAt lanes r) := by
    rw [hlane hlt] at hvalid ⊢
    exact evalLane_target hvalid
  obtain ⟨hsel, -, -, -, hphi, hphiV⟩ := silenceTrack_sameLanes s samples
  have hr : arbitrate cfg (heavyTrack s t samples).sel.toNat (uval (heavyTrack s t samples).hold) lanes = r := by
    rw [heavyTrack, updateTempograms_sel, updateTempograms_hold, hsel, silenceTrack_hold]
    rfl
  obtain ⟨hs, hp, hphit, hsc, hoff⟩ := selectLane_stores hr hlt htarget fun i hi hv => by
    rw [hlane hi] at hv ⊢
    exact evalLane_phiMh_lt hv
  obtain ⟨hs', hp', hphit', hsc', hoff', hoffV'⟩ := ticks_selectLane h hran hl1
  rw [hlanes] at hs' hp' hphit' hsc' hoff' hoffV'
  rw [← hs'] at hs
  rw [← hp'] at hp
  rw [← hphit'] at hphit
  rw [← hsc'] at hsc
  rw [← hoff', ← hoffV', heavyTrack, updateTempograms_prevphi, hphi] at hoff
  exact ⟨hbase.1, hbase.2, hlt, hs, hvalid, hp, hphit, hsc, hoff⟩

end Sys2Proof.Machine
end

section
/-! PROOFS. The novelty of a tick as the rings store it (R249, R250), the silence tracker (R292), the hold counter (R286)
and the confidence (R293, R294). -/

namespace Sys2Proof.Machine

/-! ### The novelty of a tick -/

/-- A sum of products with weights that are not negative is at most the weights' sum times the largest value. -/
theorem sum_zipWith_mul_within {w v : List Int} {top : Int} (htop : 0 ≤ top) (hw : ∀ a ∈ w, 0 ≤ a)
    (hv : valuesWithin v top) :
    0 ≤ (List.zipWith (· * ·) w v).sum ∧ (List.zipWith (· * ·) w v).sum ≤ w.sum * top := by
  induction w generalizing v with
  | nil => simp
  | cons a w ih =>
    obtain ⟨ha, hw'⟩ := List.forall_mem_cons.1 hw
    cases v with
    | nil =>
      rw [List.zipWith_nil_right, List.sum_nil]
      exact ⟨le_refl 0, mul_nonneg (List.sum_nonneg hw) htop⟩
    | cons b v =>
      obtain ⟨⟨hb0, hb1⟩, hv'⟩ := List.forall_mem_cons.1 hv
      obtain ⟨h0, h1⟩ := ih hw' hv'
      rw [List.zipWith_cons_cons, List.sum_cons, List.sum_cons]
      constructor
      · exact add_nonneg (mul_nonneg ha hb0) h0
      · rw [add_mul]
        exact add_le_add (mul_le_mul_of_nonneg_left hb1 ha) h1

/-- Band novelties are between 0 and the largest onset, whatever the rings hold (R248). -/
theorem bandNovelties_within {onsets : List Int} {top : Int} (h : valuesWithin onsets top) (rings : List (List Word)) :
    valuesWithin (List.zipWith bandNovelty onsets rings) top := by
  intro v hv
  obtain ⟨i, hi, rfl⟩ := List.getElem_of_mem hv
  rw [List.getElem_zipWith, bandNovelty]
  have honset := h _ (List.getElem_mem (List.length_zipWith ▸ hi |>.trans_le (min_le_left _ _)))
  have hmedian := median_nonneg (uvals_nonneg (rings[i]'(List.length_zipWith ▸ hi |>.trans_le (min_le_right _ _))))
  omega

/-- The mix and the low band of a novelty fit their fields where the band novelties do (R249). -/
theorem mixNovelty_within {nov : List Int} {top : Int} (htop : 0 ≤ top) (h : valuesWithin nov top) :
    (0 ≤ (mixNovelty cfg nov).mix ∧ (mixNovelty cfg nov).mix ≤ top)
      ∧ 0 ≤ (mixNovelty cfg nov).low ∧ (mixNovelty cfg nov).low ≤ top := by
  have hweights : ∀ a ∈ cfg.mixw, 0 ≤ a := by decide
  have hsum : cfg.mixw.sum = 65536 := rfl
  obtain ⟨h0, h1⟩ := sum_zipWith_mul_within htop hweights h
  rw [hsum] at h1
  refine ⟨?_, at0_within htop h 0⟩
  dsimp only [mixNovelty, fdiv]
  omega

/-- A pushed ring ends with the value pushed (R15). -/
theorem push_getLastD {α : Type} (ring : List α) (v d : α) {depth : Nat} (hdepth : 1 ≤ depth) :
    (push ring v depth).getLastD d = v := by
  unfold push
  split_ifs with hlong
  · rw [List.length_append, List.length_singleton] at hlong
    rw [List.drop_append_of_le_length (by omega), List.getLastD_concat]
  · exact List.getLastD_concat

section
variable {s t : State} {ts : Word} {samples : List Half}

/-- The mix and the low band of a novelty made fit their fields, from every state (R246 to R249). -/
theorem tickNovelty_within (h : ticks s ts samples t) (hmade : noveltyMade s) :
    (0 ≤ (tickNovelty s samples).mix ∧ (tickNovelty s samples).mix ≤ 67108800)
      ∧ 0 ≤ (tickNovelty s samples).low ∧ (tickNovelty s samples).low ≤ 67108800 := by
  have honsets : valuesWithin (cfg.tbands.map (onsetBand (uvals t.front.mprev) (uvals s.front.mprev))) 67108800 := by
    rw [onsets_uvals]
    intro v hv
    obtain ⟨b, hb, rfl⟩ := List.mem_map.1 hv
    have := bandOnset_le (ticks_mprev_le h hmade.1) s.front.mprev (List.mem_range.1 hb)
    omega
  rw [tickNovelty_of_made hmade, ← ticks_uvals_mprev h hmade.1]
  exact mixNovelty_within (by norm_num) (bandNovelties_within honsets _)

/-- The last entries of the history rings are this tick's novelty (R250). -/
theorem ticks_last_novelty (h : ticks s ts samples t) (hmade : noveltyMade s) :
    ((t.front.hmix.getLastD 0).toNat : Int) = (tickNovelty s samples).mix
      ∧ ((t.front.hlow.getLastD 0).toNat : Int) = (tickNovelty s samples).low := by
  have hdepth : 1 ≤ cfg.h := by decide
  obtain ⟨⟨hmix0, hmix1⟩, hlow0, hlow1⟩ := tickNovelty_within h hmade
  obtain ⟨-, hmix, hlow, -⟩ := ticks_rings h hmade
  obtain ⟨hpushMix, hpushLow, -⟩ := onsetStage_history cfg
    (windowSpectrum (waveform samples) s.front) (ingest cfg (waveform samples) s.front)
  rw [hmix, hlow, hpushMix, hpushLow, push_getLastD _ _ _ hdepth, push_getLastD _ _ _ hdepth,
    ← tickNovelty_of_made hmade]
  exact ⟨uval_u32 hmix0 (by omega), uval_u32 hlow0 (by omega)⟩

/-- A value of the novelty as the tracker reads it: the last entry of its ring, 0 where none was made (R292, R296). -/
theorem tickNovelty_read {x : Int} {last v : Nat} (hlast : noveltyMade s → (last : Int) = x)
    (hmade : noveltyMade s → v = last) (hnone : ¬ noveltyMade s → v = 0) :
    (if (tickNovelty s samples).valid then x else 0) = v := by
  by_cases hm : noveltyMade s
  · rw [if_pos ((tickNovelty_valid_iff s samples).2 hm), hmade hm, hlast hm]
  · rw [if_neg (mt (tickNovelty_valid_iff s samples).1 hm), hnone hm, Nat.cast_zero]

/-- The mixed novelty that the silence tracker reads is a word (R292). -/
theorem tick_mix_nat (h : ticks s ts samples t) : ∃ mix : Nat,
    (if (tickNovelty s samples).valid then (tickNovelty s samples).mix else 0) = mix ∧ mix ≤ 4294967295 := by
  split_ifs with hvalid
  · obtain ⟨⟨h0, h1⟩, -⟩ := tickNovelty_within h ((tickNovelty_valid_iff s samples).1 hvalid)
    exact ⟨_, (Int.toNat_of_nonneg h0).symm, by omega⟩
  · exact ⟨0, rfl, by norm_num⟩

end

/-! ### The silence tracker -/

/-- A stored word stored again (R9). -/
@[simp] theorem u32_uval (w : Word) : u32 (uval w) = w := by
  rw [u32, uval, BitVec.ofInt_natCast, BitVec.ofNat_toNat, BitVec.setWidth_eq]

/-- A step from a stored word towards a number that fits a word is stored as it is (R13). -/
theorem u32_ema_toNat (w : Word) {x a : Nat} (hx : x ≤ 4294967295) (ha : a ≤ 65536) :
    (u32 (ema (uval w) x a)).toNat = emaNat w.toNat x a := by
  have hle := emaNat_le ha (Nat.le_of_lt_succ w.isLt) hx
  rw [uval, ema_natCast _ _ ha]
  exact u32_natCast_toNat (by omega)

/-- The three values of the silence tracker, from a novelty that fits a word (R292). -/
theorem silenceStep_values {nv : Novelty} {mix : Nat} (hmix : (if nv.valid then nv.mix else 0) = mix)
    (hword : mix ≤ 4294967295) (tr : Track) :
    let u := silenceStep cfg nv tr
    u.novEnergy.toNat = emaNat tr.novEnergy.toNat mix 655 ∧ u.silent = decide (u.novEnergy.toNat < 66)
      ∧ u.silLevel.toNat = emaNat tr.silLevel.toNat (if u.silent = true then 65536 else 0) 1311 := by
  have henergyCoef : cfg.alphaSil = (655 : Nat) := rfl
  have hlevelCoef : cfg.alphaSl = (1311 : Nat) := rfl
  have hfloor : cfg.silFloor = (66 : Nat) := rfl
  have henergy := u32_ema_toNat tr.novEnergy hword (show 655 ≤ 65536 by norm_num)
  simp only [silenceStep, hmix, henergyCoef, hlevelCoef, hfloor]
  refine ⟨henergy, ?_, ?_⟩
  · rw [henergy]
    simp only [uval, ema_natCast _ _ (show 655 ≤ 65536 by norm_num), Int.ofNat_lt]
  · rw [← u32_ema_toNat _ (by split_ifs <;> norm_num) (by norm_num)]
    push_cast
    rfl

/-- Settles O44: the silence step on a novelty that fits its field, which the later steps leave alone (R292). -/
theorem silenceTracker : Obligations.SilenceTracker := by
  intro s ts samples t h
  obtain ⟨mix, hmix, hword⟩ := tick_mix_nat h
  have hvalues := silenceStep_values hmix hword s.track
  rw [ticks_trackStage h, trackStage_novEnergy, trackStage_silent, trackStage_silLevel]
  refine ⟨fun nv hmade hnone => ?_, hvalues.2⟩
  have hread := tickNovelty_read (samples := samples) (fun hm => (ticks_last_novelty h hm).1) hmade hnone
  rw [Int.ofNat_inj.1 (hread.symm.trans hmix)]
  exact hvalues.1

/-! ### The hold counter and the confidence -/

theorem holdStep_hold_toNat (switched : Bool) (tr : Track) : (holdStep switched tr).hold.toNat
    = if switched = true then 0 else min (tr.hold.toNat + 1) 65535 := by
  rw [holdStep]
  split_ifs
  · rfl
  · have hread := uval_u16 (v := min (uval tr.hold + 1) 65535) (by unfold uval; omega) (by omega)
    unfold uval at hread ⊢
    dsimp only
    omega

section
variable {s t : State} {ts : Word} {samples : List Half}

/-- The lane switched at a tick exactly where the selected lane changed (R286). -/
theorem laneSwitched_iff (h : ticks s ts samples t) :
    laneSwitched t.front (tickNovelty s samples) s.track = true ↔ t.track.sel ≠ s.track.sel := by
  rw [ticks_trackStage h, trackStage_sel, laneSwitched, heavyStep_sel, heavyGate_silenceStep, Bool.and_eq_true,
    bne_iff_ne]
  split_ifs with hgate
  · exact and_iff_right hgate
  · exact iff_of_false (fun hand => hgate hand.1) (fun hne => hne rfl)

end

/-- Settles O40: no other step than the hold step writes the counter, and it takes the switch from the gate (R286). -/
theorem holdCounter : Obligations.HoldCounter := by
  intro s ts samples t h
  have hold : t.track.hold
      = (holdStep (laneSwitched t.front (tickNovelty s samples) s.track) (heavyStep cfg t.front (tickNovelty s samples)
          (silenceTrack s samples))).hold := by
    rw [ticks_track h, confStep_hold, tickPll, pllStep_hold, pllInput]
  rw [hold, holdStep_hold_toNat, heavyStep_hold, silenceTrack_hold]
  simp only [laneSwitched_iff h, ne_eq, ite_not]

/-- What the confidence moves towards at a heavy update (R293). -/
def confTarget (tr : Track) : Nat := if tr.havePeak = true then tr.selscore.toNat else 0

theorem confTarget_le (tr : Track) : confTarget tr ≤ 4294967295 := by
  unfold confTarget
  split_ifs
  · exact Nat.le_of_lt_succ tr.selscore.isLt
  · norm_num

theorem nextConf_of_ran (tr : Track) : nextConf cfg true tr = emaNat tr.conf.toNat (confTarget tr) 3277 := by
  have htarget : (if tr.havePeak = true then uval tr.selscore else 0) = confTarget tr := by
    unfold confTarget
    split_ifs <;> rfl
  rw [nextConf, if_pos rfl, htarget, show cfg.alphaConf = (3277 : Nat) from rfl]
  exact ema_natCast _ _ (by norm_num)

section
variable {s t : State} {ts : Word} {samples : List Half}

/-- The confidence and its enable after a tick (R293, R294). -/
theorem ticks_conf (h : ticks s ts samples t) :
    t.track.conf = u32 (nextConf cfg (tickRan s t samples) (tickPll s t samples).1)
      ∧ t.track.confOn
        = nextConfOn cfg s.track.confOn (nextConf cfg (tickRan s t samples) (tickPll s t samples).1) := by
  have hon : (tickPll s t samples).1.confOn = s.track.confOn := by rw [tickPll, pllStep_confOn, pllInput_confOn]
  rw [ticks_track h, ← hon]
  exact ⟨rfl, rfl⟩

/-- The confidence of a tick as a number, which its field holds (R293). -/
theorem ticks_nextConf (h : ticks s ts samples t) :
    nextConf cfg (tickRan s t samples) (tickPll s t samples).1 = uval t.track.conf
      ∧ (heavyRan s t → t.track.conf.toNat = emaNat s.track.conf.toNat (confTarget t.track) 3277)
      ∧ (¬ heavyRan s t → t.track.conf = s.track.conf) := by
  have hconf : (tickPll s t samples).1.conf = s.track.conf := by rw [tickPll, pllStep_conf, pllInput_conf]
  have htarget : confTarget (tickPll s t samples).1 = confTarget t.track := by
    obtain ⟨hpeak, -, -, hscore⟩ := ticks_pllInput h
    rw [tickPll, confTarget, pllStep_havePeak, pllStep_selscore, hpeak, hscore, confTarget]
  rw [(ticks_conf h).1, ← tickRan_iff s t samples]
  cases tickRan s t samples with
  | true =>
    have hword : emaNat s.track.conf.toNat (confTarget t.track) 3277 ≤ 4294967295 :=
      emaNat_le (by norm_num) (Nat.le_of_lt_succ s.track.conf.isLt) (confTarget_le t.track)
    have hread := u32_natCast_toNat (Nat.lt_succ_of_le hword)
    rw [nextConf_of_ran, hconf, htarget]
    exact ⟨(congrArg Nat.cast hread).symm, fun _ => hread, fun hnot => absurd rfl hnot⟩
  | false =>
    have hidle : nextConf cfg false (tickPll s t samples).1 = uval s.track.conf := hconf ▸ rfl
    rw [hidle, u32_uval]
    exact ⟨rfl, fun hran => absurd hran Bool.false_ne_true, fun _ => rfl⟩

end

/-- The enable after a tick (R294). -/
theorem nextConfOn_iff (conf : Int) :
    (nextConfOn cfg false conf = true ↔ 22938 < conf) ∧ (nextConfOn cfg true conf = false ↔ conf < 16384) := by
  have hon : cfg.confOn = 22938 := rfl
  have hoff : cfg.confOff = 16384 := rfl
  simp [nextConfOn, hon, hoff]

/-- Settles O43: the confidence step on what the tick leaves of the peak flag and the score (R293, R294). -/
theorem confidenceHysteresis : Obligations.ConfidenceHysteresis := by
  intro s ts samples t h
  obtain ⟨hconf, hran, hidle⟩ := ticks_nextConf h
  have hon := (ticks_conf h).2
  obtain ⟨hup, hdown⟩ := nextConfOn_iff (uval t.track.conf)
  rw [hconf] at hon
  refine ⟨hran, hidle, fun hoff => ?_, fun hon' => ?_⟩
  · rw [hon, hoff, hup, uval]
    omega
  · rw [hon, hon', hdown, uval]
    omega

end Sys2Proof.Machine
end

section
/-! PROOFS. The PLL at a tick (R289 to R291), and the published tempo values with the beat flag (R295 to R297). -/

namespace Sys2Proof.Machine

/-! ### The PLL's three cases -/

/-- A period that is set is slewed, and the phase wrapped at it (R289, R291). -/
theorem pllStep_of_set {tr : Track} (hset : tr.periodSet = true) (ran : Bool) :
    let p := slewPeriod cfg (uval tr.period) (uval tr.ptarget)
    let ph := advancedPhase cfg ran p tr
    pllStep cfg ran tr = ({ tr with period := u32 p, phase := u32 (emod ph p) }, decide (p ≤ ph)) :=
  if_pos hset

/-- A period that is not set locks at a heavy update with a peak (R291). -/
theorem pllStep_of_lock {tr : Track} {ran : Bool} (hset : tr.periodSet = false) (hlock : (ran && tr.havePeak) = true) :
    pllStep cfg ran tr
      = ({ tr with period := tr.ptarget, phase := u32 (uval tr.phitarget * 65536), periodSet := true }, false) := by
  rw [pllStep, if_neg (hset ▸ Bool.false_ne_true), if_pos hlock]

theorem pllStep_of_idle {tr : Track} {ran : Bool} (hset : tr.periodSet = false)
    (hlock : ¬ (ran && tr.havePeak) = true) : pllStep cfg ran tr = (tr, false) := by
  rw [pllStep, if_neg (hset ▸ Bool.false_ne_true), if_neg hlock]

/-- The slew of a period by at most a share of itself (R289). -/
theorem slewPeriod_eq (p : Nat) (target : Int) : slewPeriod cfg p target
    = p + max (-((p * 105 / 65536 : Nat) : Int)) (min ((p * 105 / 65536 : Nat) : Int) (target - p)) := by
  have hslew : cfg.slew = (105 : Nat) := rfl
  have hstep : fdiv (p * cfg.slew) 65536 = (p * 105 / 65536 : Nat) := by
    rw [hslew, fdiv]
    push_cast
    rfl
  rw [slewPeriod, hstep]
  rfl

/-- A slew between two stored periods is stored as it is (R289). -/
theorem uval_u32_slewPeriod (p target : Word) :
    uval (u32 (slewPeriod cfg (uval p) (uval target))) = slewPeriod cfg (uval p) (uval target) := by
  have hp := uval_lt p
  have ht := uval_lt target
  obtain ⟨h0, h1⟩ := slewPeriod_within (lo := 0) (hi := 4294967295) (uval_nonneg p)
    ⟨uval_nonneg p, by omega⟩ ⟨uval_nonneg target, by omega⟩
  exact uval_u32 h0 (by omega)

section
variable {s t : State} {ts : Word} {samples : List Half}

/-- The period, the phase and the set flag after a tick are the PLL's (R270). -/
theorem ticks_pll (h : ticks s ts samples t) :
    t.track.period = (tickPll s t samples).1.period ∧ t.track.phase = (tickPll s t samples).1.phase
      ∧ t.track.periodSet = (tickPll s t samples).1.periodSet := by
  rw [ticks_track h]
  exact ⟨rfl, rfl, rfl⟩

/-- The period and the phase after a tick with a period that is set, and the wrap (R289, R291). -/
theorem ticks_pll_of_set (h : ticks s ts samples t) (hset : s.track.periodSet = true) :
    let ph := advancedPhase cfg (tickRan s t samples) (uval t.track.period) (pllInput s t samples)
    t.track.periodSet = true ∧ uval t.track.period = slewPeriod cfg (uval s.track.period) (uval t.track.ptarget)
      ∧ t.track.phase = u32 (emod ph (uval t.track.period))
      ∧ (tickPll s t samples).2 = decide (uval t.track.period ≤ ph) := by
  have hset' : (pllInput s t samples).periodSet = true := by rwa [pllInput_periodSet]
  obtain ⟨hperiod, hphase, hflag⟩ := ticks_pll h
  have hstep := pllStep_of_set hset' (tickRan s t samples)
  rw [← tickPll, pllInput_period, (ticks_pllInput h).2.1] at hstep
  have hslew : uval t.track.period = slewPeriod cfg (uval s.track.period) (uval t.track.ptarget) := by
    rw [hperiod, hstep]
    exact uval_u32_slewPeriod _ _
  rw [← hslew] at hstep
  refine ⟨?_, hslew, ?_, ?_⟩
  · rw [hflag, hstep]
    exact hset'
  · rw [hphase, hstep]
  · rw [hstep]

end

/-- Settles O41: the three cases of the PLL, on the target that the tick leaves (R289, R291). -/
theorem periodSlewAndLock : Obligations.PeriodSlewAndLock := by
  intro s ts samples t h
  obtain ⟨hperiod, hphase, hflag⟩ := ticks_pll h
  obtain ⟨-, hptarget, hphitarget, -⟩ := ticks_pllInput h
  refine ⟨fun hset => ?_, fun hset hlock => ?_, fun hset hnone => ?_⟩
  · obtain ⟨hflag', hslew, -⟩ := ticks_pll_of_set h hset
    exact ⟨hflag', hslew.trans (slewPeriod_eq _ _)⟩
  · have hstep := pllStep_of_lock ((pllInput_periodSet s t samples).trans hset) ((tickRan_and_havePeak_iff h).2 hlock)
    rw [← tickPll] at hstep
    rw [hflag, hperiod, hphase, hstep]
    have hlt := t.track.phitarget.isLt
    refine ⟨rfl, hptarget, ?_⟩
    rw [hphitarget, uval]
    exact u32_natCast_toNat (v := t.track.phitarget.toNat * 65536) (by omega)
  · have hstep := pllStep_of_idle ((pllInput_periodSet s t samples).trans hset)
      (mt (tickRan_and_havePeak_iff h).1 hnone)
    rw [← tickPll] at hstep
    rw [hflag, hperiod, hphase, hstep]
    exact ⟨(pllInput_periodSet s t samples).trans hset, pllInput_period s t samples, pllInput_phase s t samples⟩

/-! ### The phase -/

section
variable {s t : State} {ts : Word} {samples : List Half}

theorem phaseError_eq (phitarget ph p : Int) : phaseError phitarget ph p = phaseErr phitarget ph p := by
  simp only [phaseError, phaseErr, emod, asr, pow_one, ge_iff_le]

theorem correctPhase_eq (phitarget ph p : Int) : correctPhase cfg phitarget ph p
    = if ((phaseErr phitarget ph p).natAbs : Int) ≤ p * 16384 / 65536
      then ph + max (-32768) (min 32768 (phaseErr phitarget ph p * 8192 / 65536)) else ph := by
  rw [correctPhase, phaseError_eq]
  rfl

/-- The phase before the wrap is what the PLL computes (R289, R290). -/
theorem phaseBeforeWrap_iff (h : ticks s ts samples t) (ph : Int) : phaseBeforeWrap s t ph
    ↔ ph = advancedPhase cfg (tickRan s t samples) (uval t.track.period) (pllInput s t samples) := by
  obtain ⟨-, -, hphitarget, -⟩ := ticks_pllInput h
  rw [advancedPhase, hphitarget, pllInput_phase, correctPhase_eq, phaseBeforeWrap]
  by_cases hlock : heavyRan s t ∧ t.track.havePeak = true
  · rw [if_pos ((tickRan_and_havePeak_iff h).2 hlock)]
    split_ifs with hinside
    · have hcorrects := And.intro hlock.1 (And.intro hlock.2 hinside)
      exact ⟨fun hph => hph.1 hcorrects, fun heq => ⟨fun _ => heq, fun hnot => absurd hcorrects hnot⟩⟩
    · exact ⟨fun hph => hph.2 fun hcorrects => hinside hcorrects.2.2,
        fun heq => ⟨fun hcorrects => absurd hcorrects.2.2 hinside, fun _ => heq⟩⟩
  · rw [if_neg (mt (tickRan_and_havePeak_iff h).1 hlock)]
    exact ⟨fun hph => hph.2 fun hcorrects => hlock ⟨hcorrects.1, hcorrects.2.1⟩,
      fun heq => ⟨fun hcorrects => absurd ⟨hcorrects.1, hcorrects.2.1⟩ hlock, fun _ => heq⟩⟩

/-- The phase wrapped exactly where the PLL says so (R291). -/
theorem wrapped_iff (h : ticks s ts samples t) : wrapped s t ↔ (tickPll s t samples).2 = true := by
  cases hset : s.track.periodSet with
  | false =>
    have hnone : (tickPll s t samples).2 = false := by
      have hset' : (pllInput s t samples).periodSet = false := (pllInput_periodSet s t samples).trans hset
      rw [tickPll]
      by_cases hlock : (tickRan s t samples && (pllInput s t samples).havePeak) = true
      · rw [pllStep_of_lock hset' hlock]
      · rw [pllStep_of_idle hset' hlock]
    rw [hnone, wrapped, hset]
    exact iff_of_false (fun hw => Bool.false_ne_true hw.1) Bool.false_ne_true
  | true =>
    obtain ⟨-, -, -, hwrap⟩ := ticks_pll_of_set h hset
    rw [hwrap, decide_eq_true_eq, wrapped, hset]
    simp only [phaseBeforeWrap_iff h, exists_eq_left, true_and]
    rfl

/-! ### The outputs -/

/-- The tempo fields that a tick publishes (R57, R295 to R297). -/
theorem ticks_tempo_fields (h : ticks s ts samples t) :
    let o := tempoOut cfg t.front (tickNovelty s samples) (tickPll s t samples).2 t.track
    t.frame.bpm = u32 o.bpm ∧ t.frame.phase = u32 o.phase ∧ t.frame.strength = u32 o.strength
      ∧ t.frame.confidence = u32 o.confidence ∧ t.frame.silence = u32 o.silence
      ∧ t.frame.beatFlag = u8 (bit o.beat) ∧ t.frame.tempoReady = u8 (bit o.ready) := by
  obtain ⟨-, -, -, -, -, -, -, hframe, -⟩ := ticks_fields h
  rw [hframe, ← ticks_out h]
  exact ⟨rfl, rfl, rfl, rfl, rfl, rfl, rfl⟩

theorem tempoReady_iff (t : State) : tempoReady cfg t.front t.track = true ↔ readyAt t := by
  rw [tempoReady, Bool.and_eq_true, Bool.and_eq_true, histFull_iff, readyAt, and_assoc]

/-- A flag byte tells its bit (R9). -/
theorem bit_eq_one_iff (b : Bool) : u8 (bit b) = 1 ↔ b = true := by
  cases b <;> decide

theorem ticks_keeps_periodBounded (h : ticks s ts samples t) (hb : periodBounded s.track) : periodBounded t.track := by
  rw [ticks_trackStage h]
  exact trackStage_bounded hb _ _

end

/-- Settles O42: the phase of the PLL modulo the period, which its field holds, and the conjuncts of the beat flag
(R289 to R291, R296). -/
theorem phaseAndBeat : Obligations.PhaseAndBeat := by
  intro s ts samples t h hb
  obtain ⟨-, -, -, -, -, hbeat, -⟩ := ticks_tempo_fields h
  have hfloor : cfg.silFloor = (66 : Nat) := rfl
  have hlow {lw : Nat} := tickNovelty_read (samples := samples) (v := lw) fun hm => (ticks_last_novelty h hm).2
  refine ⟨fun hset ph hph => ?_, hbeat ▸ bit_eq_zero_or_one _, fun lw hmade hnone => ?_⟩
  · obtain ⟨hflag, -, hphase, -⟩ := ticks_pll_of_set h hset
    obtain ⟨-, hperiod⟩ := ticks_keeps_periodBounded h hb
    obtain ⟨⟨hlo, hhi⟩, -⟩ := hperiod hflag
    obtain ⟨h0, h1⟩ := emod_spec (a := ph) (b := uval t.track.period) (by unfold uval; omega)
    rw [hphase, ← (phaseBeforeWrap_iff h ph).1 hph]
    exact uval_u32 h0 (h1.trans (uval_lt _))
  · rw [hbeat, bit_eq_one_iff]
    simp only [tempoOut, beatFlag, hlow hmade hnone, hfloor, Bool.and_eq_true, decide_eq_true_eq,
      tempoReady_iff, ← wrapped_iff h, Bool.not_eq_true', gt_iff_lt, Int.ofNat_lt, and_assoc]

/-- The tempo of a period in the lag range, and its bounds (R287, R297). -/
theorem bpmOf_within {p : Nat} (hlo : 42 * 65536 ≤ p) (hhi : p ≤ 93 * 65536) :
    bpmOf cfg p = (60 * 16000 * 2 ^ 32 / (128 * p) : Nat) ∧ 5285161 ≤ 60 * 16000 * 2 ^ 32 / (128 * p)
      ∧ 60 * 16000 * 2 ^ 32 / (128 * p) ≤ 11702857 := by
  have hfs : cfg.fs = 16000 := rfl
  have hn : cfg.n = 128 := rfl
  refine ⟨?_, ?_, ?_⟩
  · rw [bpmOf, hfs, hn, fdiv]
    push_cast
    rfl
  · rw [Nat.le_div_iff_mul_le (by omega)]
    omega
  · refine Nat.le_of_lt_succ ((Nat.div_lt_iff_lt_mul (by omega)).2 ?_)
    omega

/-- The published phase, the share of the period (R297). -/
theorem phaseOf_natCast (ph p : Nat) : phaseOf ph p = (min 65535 (ph * 65536 / p) : Nat) := by
  rw [phaseOf, fdiv]
  push_cast
  rfl

/-- The published strength, the mix tempogram at the rounded lag (R297). -/
theorem strengthOf_uvals (tmix : List Word) (p : Nat) :
    strengthOf cfg (uvals tmix) p = lagValue tmix (max 42 (min 93 ((p + 32768) / 65536))) := by
  have hlag : (clampInt (rlag p) (lMin cfg) (lMax cfg)).toNat = max 42 (min 93 ((p + 32768) / 65536)) := by
    rw [lMin_cfg, lMax_cfg, clampInt, rlag, asr]
    omega
  rw [strengthOf, hlag, tgAt_uvals]

/-- Settles O45: the outputs of a ready tick fit their fields, since the period is in the lag range (R287, R295,
R297). -/
theorem tempoOutputs : Obligations.TempoOutputs := by
  intro s ts samples t h hb p
  obtain ⟨hbpm, hphase, hstrength, hconf, hsil, -, hready⟩ := ticks_tempo_fields h
  rw [hconf, hsil, hready]
  refine ⟨(bit_eq_one_iff _).trans (tempoReady_iff t), bit_eq_zero_or_one _, fun hr => ?_, fun hr => ?_,
    u32_uval _, u32_uval _⟩
  · obtain ⟨-, hperiod⟩ := ticks_keeps_periodBounded h hb
    obtain ⟨⟨hlo, hhi⟩, -⟩ := hperiod hr.2.2
    obtain ⟨hbpmOf, hmin, hmax⟩ := bpmOf_within hlo hhi
    simp only [tempoOut, (tempoReady_iff t).2 hr, if_true, uval, hbpmOf, phaseOf_natCast, strengthOf_uvals]
      at hbpm hphase hstrength
    rw [hbpm, hphase, hstrength, u32_natCast_toNat (by omega), u32_natCast_toNat (by omega),
      u32_natCast_toNat (BitVec.isLt _)]
    exact ⟨rfl, hmin, hmax, rfl, rfl⟩
  · have hnot : tempoReady cfg t.front t.track = false := Bool.eq_false_iff.2 (mt (tempoReady_iff t).1 hr)
    simp only [tempoOut, hnot, Bool.false_eq_true, if_false] at hbpm hphase hstrength
    exact ⟨hbpm, hphase, hstrength⟩

end Sys2Proof.Machine
end

section
/-! PROOFS. The commands of the control port that make no tick: NOP (R343), the tunable registers (R340, R341) and
SOFT_RESET (R155, R344), and a block with nothing to do (R333). -/

namespace Sys2Proof.Machine

/-! ### Answers with no data -/

/-- `raise` sends the header alone and changes nothing else (R360). -/
theorem raise_onlyAnswered (s : State) {st : Status} {w : Word} (hw : header st 0 = w) :
    onlyAnswered s (s.raise st) [w] :=
  hw ▸ respond_onlyAnswered s st []

/-- `raise` after a change that touches no port sends the header alone on the port of the command (R360). -/
theorem raise_answered {s u : State} {st : Status} {w : Word} (hw : header st 0 = w) (hctl : u.ctl = s.ctl)
    (hreaders : u.readers = s.readers) (hcur : u.cur = s.cur) (hturns : u.turns = s.turns) :
    answered s (u.raise st) [w] := by
  obtain ⟨hsent, -⟩ := raise_onlyAnswered u hw
  exact answered_of_same_ports hsent hctl hreaders hcur hturns

/-- Settles O1: admission of the word 0 by its code and fields, and the OK header as the whole effect (R343). -/
theorem nopDoesNothing : Obligations.NopDoesNothing := by
  refine ⟨by decide, fun control payload => ?_, fun s => ⟨s.raise .ok, rfl, raise_onlyAnswered s (by decide)⟩⟩
  exact accept_eq_ok_iff.2 ⟨.nop, by decide, .inr rfl, by decide, by decide, rfl⟩

/-! ### Tunable registers -/

/-- Settles O3: the register of the id, read and answered on the control port (R341). -/
theorem getTunableReads : Obligations.GetTunableReads := by
  intro id
  refine ⟨?_, fun s hc => ⟨s.answerRead (s.tun.get? id.toNat), onControl_of_control hc _, ?_⟩⟩
  · rw [encode, commandWord_sel]
    rfl
  · have hread := answerRead_onlyAnswered s (s.tun.get? id.toNat)
    generalize id.toNat = n at hread ⊢
    rcases n with _ | _ | _ | _ | _ | n <;> exact hread

/-- A register reads as written, and every other one as before (R42). -/
theorem Tunables.get?_set (t : Tunables) {id j : Nat} (hid : id ≤ 4) (hj : j ≤ 4) (v : Word) :
    (t.set id v).get? j = if j = id then some v else t.get? j := by
  interval_cases id <;> interval_cases j <;> rfl

/-- The bounds of a register (R42). -/
theorem tunableRange_eq (id : Nat) :
    tunableRange id = (if id = 3 then 256 else 1, if id = 3 then 262144 else 65536) := by
  unfold tunableRange
  split
  · rfl
  · next hne => rw [if_neg hne, if_neg hne]

/-- The stored value is the value given, clamped to the bounds of the register (R340). -/
theorem clampTunable_toNat (id : Nat) (v : Word) :
    (clampTunable id v).toNat = max (tunableRange id).1 (min (tunableRange id).2 v.toNat) := by
  have hrange : (tunableRange id).1 < 4294967296 := by rw [tunableRange_eq]; dsimp only; split <;> omega
  have hv := v.isLt
  rw [← u32_natCast_toNat (v := max (tunableRange id).1 (min (tunableRange id).2 v.toNat)) (by omega)]
  push_cast
  rfl

@[simp] theorem State.writeTunable_tick (s : State) (id : Nat) (v : Word) : (s.writeTunable id v).tick = s.tick := by
  unfold State.writeTunable; split <;> rfl
@[simp] theorem State.writeTunable_readyLast (s : State) (id : Nat) (v : Word) :
    (s.writeTunable id v).readyLast = s.readyLast := by
  unfold State.writeTunable; split <;> rfl
@[simp] theorem State.writeTunable_frame (s : State) (id : Nat) (v : Word) : (s.writeTunable id v).frame = s.frame := by
  unfold State.writeTunable; split <;> rfl

section
variable {id : Nat} {v : Word}

/-- A value in range is answered OK and is no guard event (R340). -/
theorem writeTunable_of_inRange (hv : clampTunable id v = v) (s : State) :
    (s.writeTunable id v).guard = s.guard ∧ answered s (s.writeTunable id v) [0x00000000] := by
  have hwrite : s.writeTunable id v = State.raise { s with tun := s.tun.set id (clampTunable id v) } .ok := if_pos hv
  rw [hwrite]
  exact ⟨rfl, raise_answered (by decide) rfl rfl rfl rfl⟩

/-- A value out of range is answered OK_CLAMPED and is a guard event (R45, R340). -/
theorem writeTunable_of_clamped (hv : clampTunable id v ≠ v) (s : State) :
    (s.writeTunable id v).guard.toNat = min (s.guard.toNat + 1) 0xFFFFFFFF
      ∧ answered s (s.writeTunable id v) [0x01000000] := by
  have hwrite : s.writeTunable id v
      = (State.guardEvent { s with tun := s.tun.set id (clampTunable id v) }).raise .okClamped := if_neg hv
  rw [hwrite]
  exact ⟨guardEvent_guard_toNat _, raise_answered (by decide) rfl rfl rfl rfl⟩

end

/-- Settles O6: an id above 4 is answered ILLEGAL, and a register write is told apart by whether the clamp moved the
value (R42, R340). -/
theorem setTunableClamps : Obligations.SetTunableClamps := by
  intro id v s hc
  have hexec : ∀ t, (if id.toNat < tunableCount then s.writeTunable id.toNat v else s.raise .illegal) = t →
      exec (.setTunable id v) s = .next t := fun t ht => ht ▸ onControl_of_control hc _
  by_cases hid : id.toNat < tunableCount
  · have hle : id.toNat ≤ 4 := Nat.le_of_lt_succ hid
    refine ⟨s.writeTunable id.toNat v, hexec _ (if_pos hid), fun h => absurd h hle.not_gt, ?_⟩
    intro _ lo hi x
    have hx : (clampTunable id.toNat v).toNat = x := by rw [clampTunable_toNat, tunableRange_eq]
    have hstored : clampTunable id.toNat v = BitVec.ofNat 32 x := by rw [← hx, BitVec.ofNat_toNat, BitVec.setWidth_eq]
    have hkept : x = v.toNat ↔ clampTunable id.toNat v = v := by rw [← hx, BitVec.toNat_inj]
    refine ⟨fun j hj => ?_, fun h => writeTunable_of_inRange (hkept.1 h) s,
      fun h => writeTunable_of_clamped (mt hkept.2 h) s, State.writeTunable_tick .., State.writeTunable_readyLast ..,
      State.writeTunable_post .., State.writeTunable_rawprev .., State.writeTunable_front ..,
      State.writeTunable_track .., State.writeTunable_frame .., ?_⟩
    · rw [State.writeTunable_tun, Tunables.get?_set _ hle hj, hstored]
    · rw [sameBus, State.writeTunable_bus]
      exact ⟨fun _ => rfl, rfl, rfl⟩
  · exact ⟨s.raise .illegal, hexec _ (if_neg hid), fun _ => raise_illegal_onlyAnswered s,
      fun h => absurd (Nat.lt_succ_of_le h) hid⟩

/-! ### SOFT_RESET -/

/-- A byte of the slot is its eight bits of the word it stands in (R82, R83). -/
theorem Memory.read_eq_extract_readWord (m : Memory) (w : Nat) {i : Nat} (hi : i < 4) :
    m.read (4 * w + i) = (m.readWord w).extractLsb' (8 * i) 8 := by
  apply BitVec.eq_of_getLsbD_eq
  intro j hj
  rw [Memory.readWord, wordOfBytes]
  simp only [BitVec.getLsbD_extractLsb', BitVec.getLsbD_append, hj, decide_true, Bool.true_and]
  interval_cases i
  · simp [hj]
  · simp [show ¬ 8 + j < 8 by omega, hj]
  · simp [show ¬ 16 + j < 8 by omega, show ¬ 16 + j - 8 < 8 by omega, show 16 + j - 8 - 8 = j by omega, hj]
  · simp [show ¬ 24 + j < 8 by omega, show ¬ 24 + j - 8 < 8 by omega, show ¬ 24 + j - 8 - 8 < 8 by omega,
      show 24 + j - 8 - 8 - 8 = j by omega]

/-- A slot whose words are 0, and whose bytes past the words are, reads as 0 everywhere. -/
theorem Memory.read_eq_zero {m : Memory} (hwords : ∀ w, w < 219 → m.readWord w = 0) (hpast : ∀ a, 876 ≤ a → m.read a = 0)
    (a : Nat) : m.read a = 0 := by
  by_cases ha : a < 876
  · rw [← Nat.div_add_mod a 4, Memory.read_eq_extract_readWord m _ (Nat.mod_lt a (by decide)), hwords _ (by omega)]
    exact BitVec.eq_of_getLsbD_eq fun j _ => by simp
  · exact hpast a (by omega)

/-- The bus sequence of SOFT_RESET clears every byte of a canonical slot (R155). -/
theorem softReset_slot {s : State} (hwf : s.bus.slot.wf = true) (a : Nat) : (s.softReset cfg).bus.slot.read a = 0 := by
  have hlen : (zeroWords cfg).length = 219 := List.length_replicate
  obtain ⟨-, hwords, hpast⟩ := writeSlots_slot (zeroWords cfg) (s.resetProducer cfg) 0 hwf (by rw [hlen]; decide)
  have hslot : (s.softReset cfg).bus.slot = ((s.resetProducer cfg).writeSlots 0 (zeroWords cfg)).bus.slot := by
    rw [State.softReset, State.writeSequence_eq]
  rw [hslot]
  refine Memory.read_eq_zero (fun w hw => ?_) (fun b hb => ?_) a
  · rw [hwords w hw, if_pos ⟨Nat.zero_le w, by omega⟩, zeroWords_getD]
    rfl
  · rw [hpast b hb]
    exact Memory.read_above hwf hb

theorem zeroFrame_words : frameWords (Frame.zero cfg) = List.replicate 219 0 := by decide +kernel

/-- The reset values of the producer are those of R391. -/
theorem producerAtReset_resetProducer (s : State) : producerAtReset (s.resetProducer cfg) :=
  ⟨rfl, rfl, rfl, rfl, rfl, rfl, rfl, rfl, zeroFrame_words⟩

/-- Whether the producer is at reset is told by its elements alone. -/
theorem producerAtReset_of_sameProducer {s t : State} (h : sameProducer s t) (hs : producerAtReset s) :
    producerAtReset t := by
  obtain ⟨htun, htick, hguard, hready, hpost, hraw, hfront, htrack, hframe⟩ := h
  rwa [producerAtReset, htun, htick, hguard, hready, hpost, hraw, hfront, htrack, hframe]

theorem writeSequence_sameProducer (s : State) (ws : List Word) (e : Word) : sameProducer s (s.writeSequence ws e) := by
  rw [State.writeSequence_eq]
  exact sameProducer_refl s

theorem producerAtReset_softReset (s : State) : producerAtReset (s.softReset cfg) :=
  producerAtReset_of_sameProducer (writeSequence_sameProducer (s.resetProducer cfg) _ _)
    (producerAtReset_resetProducer s)

/-- Settles O7: the producer at its reset values, then the bus sequence over the slot, then the answer (R155, R344). -/
theorem softResetRestores : Obligations.SoftResetRestores := by
  refine ⟨by decide, fun s hc hwf => ⟨(s.softReset cfg).raise .ok, onControl_of_control hc _, ?_, ?_, ?_, ?_, ?_⟩⟩
  · refine raise_answered (by decide) ?_ ?_ ?_ ?_
    · rw [State.softReset, State.writeSequence_ctl, State.resetProducer_ctl]
    · rw [State.softReset, State.writeSequence_readers, State.resetProducer_readers]
    · exact State.softReset_cur s
    · rw [State.softReset, State.writeSequence_turns, State.resetProducer_turns]
  · obtain ⟨hsame, -⟩ := respond_sameStored (s.softReset cfg) .ok []
    exact producerAtReset_of_sameProducer hsame (producerAtReset_softReset s)
  · rw [State.raise_bus]
    exact softReset_slot hwf
  · rw [State.raise_bus, State.softReset, State.writeSequence_epoch]
  · rw [State.raise_bus, State.softReset, State.writeSequence_wseq, BitVec.add_assoc]
    rfl

/-! ### Nothing to do -/

/-- No port is chosen among reader ports that have nothing to do (log 1). -/
theorem firstReady_eq_none {l : List PortState} (h : ∀ ps ∈ l, ps.ready = false) (r : Nat) : firstReady r l = none := by
  induction l generalizing r with
  | nil => rfl
  | cons ps rest ih =>
    obtain ⟨hps, hrest⟩ := List.forall_mem_cons.1 h
    rw [firstReady, hps]
    exact ih hrest (r + 1)

/-- No port is chosen where none has something to do (log 1). -/
theorem nextPort_eq_none {s : State} (h : ∀ p ps, s.port? p = some ps → ps.ready = false) : s.nextPort = none := by
  have hreaders : ∀ ps ∈ s.readers, ps.ready = false := fun ps hps => by
    obtain ⟨r, hr⟩ := List.mem_iff_getElem?.1 hps
    exact h (.reader (r + 1)) ps hr
  rw [State.nextPort, h .control s.ctl rfl]
  exact firstReady_eq_none hreaders 1

/-- Settles O13: no port is chosen, and a step without a move holds the state (R333, log 1). -/
theorem idleBlockHoldsState : Obligations.IdleBlockHoldsState := by
  intro s hturns hidle
  have hnone : s.nextPort = none := nextPort_eq_none fun p ps hp => by
    obtain ⟨hbusy, hcmds⟩ := hidle p ps hp
    rw [PortState.ready, hbusy, hcmds]
    rfl
  simp only [step_eq, State.advance, hturns, hnone]

end Sys2Proof.Machine
end

section
/-! PROOFS. Two inputs that no stage of a tick reads: the timestamp, which only passes into the frame (R332), and the
tunable register 0 (R42, R206). -/

namespace Sys2Proof.Machine

/-! ### The ports and the frame of a tick -/

/-- The control port after a tick: one more response word, OK for a whole chunk and OK_CLAMPED for another (R330). -/
theorem ticks_ctl {s t : State} {ts : Word} {samples : List Half} (h : ticks s ts samples t) : t.ctl =
    { s.ctl with resp := s.ctl.resp ++ [if samples.length = 128 then 0x00000000 else 0x01000000] } := by
  obtain ⟨hsent, -⟩ := ticks_answered h
  rw [h.1] at hsent
  exact Option.some.inj hsent

/-- A tick leaves the reader ports alone (R365). -/
theorem ticks_readers {s t : State} {ts : Word} {samples : List Half} (h : ticks s ts samples t) :
    t.readers = s.readers := by
  have honly := exec_onlyPort h.2
  rw [h.1] at honly
  exact honly.readers_eq

/-- The timestamp is word 1 of a frame and no other (R81). -/
theorem frameWord_withTimestamp (f : Frame) (ts : Word) {w : Nat} (hw : w ≠ 1) :
    frameWord { f with timestamp := ts } w = frameWord f w := by
  rcases w with _ | _ | w
  · rfl
  · exact absurd rfl hw
  · rfl

/-- Two ticks of one state on the same samples leave producers that differ in the timestamp of the frame alone (R332). -/
theorem ticks_other_timestamp {s t t' : State} {ts ts' : Word} {samples : List Half} (h : ticks s ts samples t)
    (h' : ticks s ts' samples t') :
    sameProducer { t with frame := t'.frame } t' ∧ t'.frame = { t.frame with timestamp := ts' } := by
  obtain ⟨htun, htick, hguard, hpost, hraw, hfront, htrack, hframe, hready, -, -⟩ := ticks_fields h
  obtain ⟨htun', htick', hguard', hpost', hraw', hfront', htrack', hframe', hready', -, -⟩ := ticks_fields h'
  refine ⟨⟨htun'.trans htun.symm, htick'.trans htick.symm, hguard'.trans hguard.symm, hready'.trans hready.symm,
    hpost'.trans hpost.symm, hraw'.trans hraw.symm, hfront'.trans hfront.symm, htrack'.trans htrack.symm, rfl⟩, ?_⟩
  rw [hframe', hframe]
  rfl

/-! ### Another value of register 0 -/

/-- `s` with another value of tunable register 0. -/
def State.withSpecSmooth (s : State) (v : Word) : State := { s with tun := { s.tun with specSmooth := v } }

/-- What a run of slot writes leaves in the slot depends on the slot before it alone. -/
theorem writeSlots_slot_congr {s u : State} (h : u.bus.slot = s.bus.slot) (w : Nat) (ws : List Word) :
    (u.writeSlots w ws).bus.slot = (s.writeSlots w ws).bus.slot := by
  induction ws generalizing s u w with
  | nil => exact h
  | cons v rest ih => exact ih (by rw [State.writeSlot_slot, State.writeSlot_slot, h]) (w + 1)

theorem publish_withSpecSmooth (s : State) (v : Word) : (s.withSpecSmooth v).publish = s.publish.withSpecSmooth v := by
  have hslot := writeSlots_slot_congr (s := s) (u := s.withSpecSmooth v) rfl 0 (frameWords s.frame)
  rw [State.publish, State.publish, State.writeSequence_eq, State.writeSequence_eq]
  exact congrArg (fun m => State.withSpecSmooth { s with bus := ⟨m, s.frame.epoch, s.bus.wseq + 1 + 1⟩ } v) hslot

/-- No stage reads register 0: the values of a tick are the same (R206). -/
theorem tickValues_withSpecSmooth (s : State) (v : Word) (samples : List Half) :
    tickValues cfg (s.withSpecSmooth v) samples = tickValues cfg s samples := rfl

theorem runTick_withSpecSmooth (s : State) (v : Word) (ts : Word) (samples : List Half) :
    (s.withSpecSmooth v).runTick cfg ts samples = (s.runTick cfg ts samples).withSpecSmooth v := by
  rw [runTick_eq, runTick_eq, tickValues_withSpecSmooth]
  generalize tickValues cfg s samples = values
  rfl

theorem raise_withSpecSmooth (s : State) (v : Word) (st : Status) :
    (s.withSpecSmooth v).raise st = (s.raise st).withSpecSmooth v := rfl

/-- A tick with another value of register 0 is the same tick but for that register (R42, R206). -/
theorem ticks_withSpecSmooth {s t : State} {ts : Word} {samples : List Half} (h : ticks s ts samples t) (v : Word) :
    ticks (s.withSpecSmooth v) ts samples (t.withSpecSmooth v) := by
  have hnext := ticks_next (s := s.withSpecSmooth v) h.1 ts samples
  rw [runTick_withSpecSmooth, publish_withSpecSmooth, raise_withSpecSmooth, ← ticks_eq h] at hnext
  exact hnext

/-- Settles O48: a tick with each other input exists and is told apart from the given one field by field (R332, R206). -/
theorem unreadInputs : Obligations.UnreadInputs := by
  intro s ts samples t h
  refine ⟨fun ts' hwf => ?_, ticks_withSpecSmooth h⟩
  have h' := ticks_next h.1 ts' samples
  generalize ((s.runTick cfg ts' samples).publish).raise (chunkStatus cfg samples) = t' at h'
  obtain ⟨hprod, hframe⟩ := ticks_other_timestamp h h'
  obtain ⟨hwseq, hepoch⟩ := ticks_sequence h
  obtain ⟨hwseq', hepoch'⟩ := ticks_sequence h'
  obtain ⟨-, hwords, -⟩ := ticks_slot h hwf
  obtain ⟨-, hwords', -⟩ := ticks_slot h' hwf
  refine ⟨t', h', hprod, hframe, hepoch'.trans hepoch.symm, hwseq'.trans hwseq.symm, fun w hw hne => ?_,
    (ticks_ctl h').trans (ticks_ctl h).symm, (ticks_readers h').trans (ticks_readers h).symm⟩
  rw [hwords' w hw, hwords w hw, hframe, frameWord_withTimestamp _ _ hne]

end Sys2Proof.Machine
end

section
/-! PROOFS. A hardware reset (R390, R391): the state it leaves of any state, that it leaves the reset state as it is, and
what a host reads of the reset state (R392). -/

namespace Sys2Proof.Machine

/-! ### The state that a hardware reset leaves -/

/-- The producer is reset by a hardware reset as it is by SOFT_RESET (R344, R391). -/
theorem hardReset_sameProducer (s : State) : sameProducer (s.resetProducer cfg) (s.hardReset cfg) :=
  ⟨rfl, rfl, rfl, rfl, rfl, rfl, rfl, rfl, rfl⟩

theorem producerAtReset_hardReset (s : State) : producerAtReset (s.hardReset cfg) :=
  producerAtReset_of_sameProducer (hardReset_sameProducer s) (producerAtReset_resetProducer s)

theorem hardReset_slot (s : State) (a : Nat) : (s.hardReset cfg).bus.slot.read a = 0 := by
  rw [State.hardReset_bus]
  exact Memory.read_nil a

/-- Settles O14: the step is the reset itself, which resets the producer, the bus and each port (R390, R391). -/
theorem hardResetMove : Obligations.HardResetMove := by
  intro s rest hturns
  refine ⟨_, step_of_turn hturns, producerAtReset_hardReset _, hardReset_slot _, rfl, rfl, fun p => ?_,
    State.hardReset_turns cfg _⟩
  rw [hardReset_port?, State.port?_withTurns]
  rfl

/-! ### The reset state -/

/-- The reset state is what a hardware reset makes of it: its ports have nothing to lose (R390, R391). -/
theorem hardReset_reset : State.reset.hardReset cfg = State.reset := by
  have hreaders : State.reset.readers = List.replicate Config.readers PortState.idle := rfl
  rw [State.hardReset, hreaders, List.length_replicate, List.map_replicate]
  rfl

/-- The status registers of the reset state (R43, R392): FLAGS by `flagsFields`, the others element by element. -/
theorem reset_status? {idx : Nat} (h : idx < 10) :
    State.reset.status? cfg idx = some (if idx = 2 then 0x00000114 else 0) := by
  match idx, h with
  | 2, _ => exact congrArg some flagsFields.2
  | 0, _ | 1, _ | 3, _ | 4, _ | 5, _ | 6, _ | 7, _ | 8, _ | 9, _ => rfl
  | n + 10, h => omega

/-- Nothing has been published, so a SNAPSHOT finds epoch 0 and no attempt succeeds (R152, R392). -/
theorem reset_snapshot (k : Half) :
    ∃ t, exec (.snapshot k) State.reset = .next t ∧ onlyAnswered State.reset t [0x02000000] := by
  obtain ⟨t, hnext, -, hnoData⟩ := snapshotAnswers k State.reset
  exact ⟨t, hnext, hnoData fun ⟨_, _, hepoch, _⟩ => hepoch rfl⟩

/-- Settles O15: the producer and the slot as after a hardware reset of the reset state, then what a host reads (R391,
R392). -/
theorem resetValues : Obligations.ResetValues := by
  refine ⟨?_, fun a => ?_, rfl, rfl, fun _ _ hp => reset_port hp, fun _ h => reset_status? h, reset_snapshot⟩
  · rw [← hardReset_reset]
    exact producerAtReset_hardReset _
  · rw [← hardReset_reset]
    exact hardReset_slot _ a

/-! ### The whole invariant -/

theorem producerLegal_hardReset (s : State) : producerLegal (s.hardReset cfg) :=
  ⟨⟨tunablesLegal_reset, spectralInRange_resetProducer s⟩, frontShaped_reset, trackInRange_reset, periodBounded_reset,
    laneStateOk_reset⟩

/-- After a hardware reset nothing is published and nothing is being published (R390, R391). -/
theorem framesOk_hardReset (s : State) : framesOk (s.hardReset cfg) :=
  ⟨slotFrameOk_of_epoch_zero rfl, stagedFrameOk_of_not_publishing (not_publishing_of_notWriting notWriting_none)⟩

/-- A hardware reset makes any state legal (R391). -/
theorem stateLegal_hardReset (s : State) : stateLegal (s.hardReset cfg) :=
  (stateLegal_iff _).2 ⟨producerLegal_hardReset s, hardReset_busConsistent s, framesOk_hardReset s⟩

/-- Settles O55: a hardware reset of any state is legal, and the reset state is one (R391). -/
theorem stateLegalAtReset : Obligations.StateLegalAtReset := by
  unfold Obligations.StateLegalAtReset
  rw [← hardReset_reset]
  exact stateLegal_hardReset _

end Sys2Proof.Machine
end
